-- ==== Sys2Proof/Word.lean ====
section
/-! DEFINITION. The word types of QDEC-EVR (00_scope.md R11) and their plainest arithmetic. -/

namespace Sys2Proof

/-- A timestamp or a time parameter: 32 bits, unsigned (R11, R15). -/
abbrev Word := BitVec 32

/-- A position counter, a record's type field or one byte of a record (R11). -/
abbrev Byte := BitVec 8

/-- The sample word `S[5:0]` (30_encoding.md R60). -/
abbrev Sample := BitVec 6

/-- An event record `REC[55:0]` (R11, 30_encoding.md R62). -/
abbrev Record := BitVec 56

end Sys2Proof
end

