-- ==== Sys2Proof/Syntax.lean ====
section
/-! DEFINITION. The operations of QDEC-EVR as syntax: the instances the registers are indexed by, the event kinds, the
input words of a clock edge, and `Instr`, one constructor per row of spec/opcode_table.json. -/

namespace Sys2Proof

/-- An encoder or rate-limit channel: MAIN or SUB (00_scope.md R12). -/
inductive Chan
  | main
  | sub
deriving DecidableEq, Repr

/-- A button: 0 or 1 (R12). -/
inductive Btn
  | b0
  | b1
deriving DecidableEq, Repr

/-- One of the four output slots (R12, 30_encoding.md R69). -/
inductive Slot
  | s0
  | s1
  | s2
  | s3
deriving DecidableEq, Repr

/-- One value per channel: `REG[MAIN]`, `REG[SUB]` (R14). -/
structure PerChan (α : Type) where
  main : α
  sub : α
deriving DecidableEq, Repr

/-- One value per button: `REG[0]`, `REG[1]`. -/
structure PerBtn (α : Type) where
  b0 : α
  b1 : α
deriving DecidableEq, Repr

/-- One value per output slot: `REG[0]` to `REG[3]`. -/
structure PerSlot (α : Type) where
  s0 : α
  s1 : α
  s2 : α
  s3 : α
deriving DecidableEq, Repr

def PerChan.get {α : Type} (r : PerChan α) : Chan → α
  | .main => r.main
  | .sub => r.sub

def PerChan.set {α : Type} (r : PerChan α) (c : Chan) (v : α) : PerChan α :=
  match c with
  | .main => { r with main := v }
  | .sub => { r with sub := v }

def PerBtn.get {α : Type} (r : PerBtn α) : Btn → α
  | .b0 => r.b0
  | .b1 => r.b1

def PerBtn.set {α : Type} (r : PerBtn α) (b : Btn) (v : α) : PerBtn α :=
  match b with
  | .b0 => { r with b0 := v }
  | .b1 => { r with b1 := v }

def PerSlot.get {α : Type} (r : PerSlot α) : Slot → α
  | .s0 => r.s0
  | .s1 => r.s1
  | .s2 => r.s2
  | .s3 => r.s3

def PerSlot.set {α : Type} (r : PerSlot α) (k : Slot) (v : α) : PerSlot α :=
  match k with
  | .s0 => { r with s0 := v }
  | .s1 => { r with s1 := v }
  | .s2 => { r with s2 := v }
  | .s3 => { r with s3 := v }

/-- The slots in ascending order, the order of delivery (20_memory.md R52). -/
def Slot.all : List Slot := [.s0, .s1, .s2, .s3]

/-- The number k of slot k. -/
def Slot.index : Slot → Nat
  | .s0 => 0
  | .s1 => 1
  | .s2 => 2
  | .s3 => 3

/-- The slot of button b: 2 + b (30_encoding.md R69). -/
def Btn.slot : Btn → Slot
  | .b0 => .s2
  | .b1 => .s3

/-- The kinds a button edge can be routed to (00_scope.md R10, 30_encoding.md R66). -/
inductive ButtonKind
  | confirm
  | cancel
  | aiPress
  | aiRelease
deriving DecidableEq, Repr

/-- The six event kinds (30_encoding.md R63). -/
inductive Kind
  | mainRotate
  | subRotate
  | button (k : ButtonKind)
deriving DecidableEq, Repr

/-- What the input ports carry at one rising edge of `clk` (10_state.md R38, 20_memory.md R49): the control word
`CTL[1:0] = {rst, tick}` of 30_encoding.md R59, the sample word and the host's clock. -/
structure Edge where
  ctl : BitVec 2
  sample : Sample
  nowMs : Word
deriving DecidableEq, Repr

/-- One input word of the model: a clock edge of the block (R59), or an event record with the slot it stands in, for the
record decoder of 30_encoding.md R62 to R64 (log 4). -/
inductive Stimulus
  | edge (e : Edge)
  | record (k : Slot) (r : Record)
deriving DecidableEq, Repr

/-- One constructor per row of spec/opcode_table.json. The three control-word rows are the block's operations (R59). The
six event rows are its event records, with the fields of R62; a button kind names the button, hence the slot, it comes
from (R69). -/
inductive Instr
  /-- `RESET`, R100. The argument is the ignored `tick` bit of the control word, "a simultaneous tick is lost". -/
  | reset (lostTick : Bool)
  /-- `TICK`, R102. -/
  | tick (sample : Sample) (nowMs : Word)
  /-- `IDLE`, R101. -/
  | idle
  /-- `EV.MainRotate`, R105. -/
  | evMainRotate (mainIndex subIndex : Byte) (timestamp : Word)
  /-- `EV.SubRotate`, R107. -/
  | evSubRotate (mainIndex subIndex : Byte) (timestamp : Word)
  /-- `EV.Confirm`, R108. -/
  | evConfirm (b : Btn) (mainIndex subIndex : Byte) (timestamp : Word)
  /-- `EV.Cancel`, R108. -/
  | evCancel (b : Btn) (mainIndex subIndex : Byte) (timestamp : Word)
  /-- `EV.AiPress`, R108. -/
  | evAiPress (b : Btn) (mainIndex subIndex : Byte) (timestamp : Word)
  /-- `EV.AiRelease`, R108. -/
  | evAiRelease (b : Btn) (mainIndex subIndex : Byte) (timestamp : Word)
deriving DecidableEq, Repr

end Sys2Proof
end

