-- ==== Sys2Proof/Config.lean ====
section
/-! DEFINITION. What an implementation fixes: the parameters of 00_scope.md R6 to R10 with their defaults, and the free
values of the model. The parameters are constants for a whole run (R13); State carries them (log 1). -/

namespace Sys2Proof

/-- `P_ROUTE[b] = (on_press, on_release)` (R10). `none` is the member `NONE`: no event. -/
structure Route where
  onPress : Option ButtonKind
  onRelease : Option ButtonKind
deriving DecidableEq, Repr

/-- The parameters of R6 to R10. `warm` has the four bits that R9's upper bound keeps `WARM` at; that it is not 0 is
checked by `Config.accepted`. A route holds only the codes R66 admits; other codes are refused when a configuration is
loaded (`loadConfig`, Decode.lean). -/
structure Config where
  /-- `P_DEB_MS` (R6) -/
  debMs : Word
  /-- `P_COOL_MS` (R7) -/
  coolMs : Word
  /-- `P_RATE_MS` (R8) -/
  rateMs : Word
  /-- `P_WARM` (R9) -/
  warm : BitVec 4
  /-- `P_ROUTE[b]` (R10) -/
  route : PerBtn Route
deriving DecidableEq, Repr

/-- The normative defaults of R6 to R10. -/
def Config.default : Config where
  debMs := 50
  coolMs := 100
  rateMs := 100
  warm := 10
  route := ⟨⟨some .confirm, none⟩, ⟨some .aiPress, some .aiRelease⟩⟩

/-- A configuration with `P_WARM` = 0 is refused (R9). -/
def Config.accepted (c : Config) : Bool := c.warm != 0

/-- A configuration as raw numbers, before it is accepted: `P_WARM` any integer, each route member a 3-bit code (30_encoding.md
R66). -/
structure RawConfig where
  debMs : Word
  coolMs : Word
  rateMs : Word
  warm : Nat
  onPress : PerBtn (BitVec 3)
  onRelease : PerBtn (BitVec 3)
deriving DecidableEq, Repr

/-- Why a configuration is refused before the run starts (60_exceptions.md R117). -/
inductive ConfigError
  /-- `P_WARM` is not in 1..15 (00_scope.md R9). -/
  | warmOutOfRange (n : Nat)
  /-- A route holds the code 0, 1 or 6 (30_encoding.md R66). -/
  | routeCode (code : BitVec 3)
deriving DecidableEq, Repr

/-- Free values (log 3): what the host drives at an edge for which no stimulus was given. Nothing constrains them: "All
non-determinism belongs to the host's inputs" (43_event_router.md R116). -/
opaque Config.freeCtl : Nat → BitVec 2

opaque Config.freeSample : Nat → Sample

opaque Config.freeNow : Nat → Word

end Sys2Proof
end

