-- ==== Sys2Proof/WellFormed.lean ====
section
/-! DEFINITION. Which instructions are well formed. Every operand value of a control word is legal (30_encoding.md R59,
R65). A record is well formed when the block can produce it, as far as its fields alone say: a MainRotate record always
has `sub_index` = 0 (43_event_router.md R106, 30_encoding.md R62); the other kinds have no such limit. -/

namespace Sys2Proof

def Instr.wellFormed : Instr → Bool
  | .reset _ => true
  | .tick _ _ => true
  | .idle => true
  | .evMainRotate _ subIndex _ => subIndex == 0
  | .evSubRotate _ _ _ => true
  | .evConfirm _ _ _ _ => true
  | .evCancel _ _ _ _ => true
  | .evAiPress _ _ _ _ => true
  | .evAiRelease _ _ _ _ => true

end Sys2Proof
end

