-- ==== Sys2Proof/Decode.lean ====
section
/-! DEFINITION. The decoder of control words and event records (30_encoding.md), total, rejecting by name; the encoder,
from the same tables; the byte serialisation of a record (20_memory.md R47); the route codes (R66). -/

namespace Sys2Proof

/-- Why an input word has no instruction. -/
inductive DecodeError
  /-- The record's `type` is in 0x06..0xFF: reserved, "must refuse it" (30_encoding.md R64). -/
  | reservedType (ty : Byte)
  /-- The record's kind cannot stand in that slot (30_encoding.md R69). -/
  | kindNotOfSlot (ty : Byte) (k : Slot)
deriving DecidableEq, Repr

/-- Why a byte string has no instruction. -/
inductive WireError
  /-- A record is seven bytes (20_memory.md R47). -/
  | recordLength (n : Nat)
  /-- The seven bytes are a record that decodes to nothing. -/
  | record (e : DecodeError)
deriving DecidableEq, Repr

/-! ### Event kinds -/

/-- The kind ordinals that "MUST match" (R63). -/
def Kind.ordinal : Kind → Byte
  | .mainRotate => 0
  | .subRotate => 1
  | .button .confirm => 2
  | .button .cancel => 3
  | .button .aiPress => 4
  | .button .aiRelease => 5

/-- The kind of a `type` field; `none` for the reserved values (R63, R64). -/
def Kind.ofOrdinal (ty : Byte) : Option Kind :=
  if ty = 0 then some .mainRotate
  else if ty = 1 then some .subRotate
  else if ty = 2 then some (.button .confirm)
  else if ty = 3 then some (.button .cancel)
  else if ty = 4 then some (.button .aiPress)
  else if ty = 5 then some (.button .aiRelease)
  else none

/-! ### The record's fields (R62) -/

def recordType (r : Record) : Byte := r.extractLsb' 0 8

def recordMain (r : Record) : Byte := r.extractLsb' 8 8

def recordSub (r : Record) : Byte := r.extractLsb' 16 8

def recordTime (r : Record) : Word := r.extractLsb' 24 32

/-- `REC = { timestamp, sub_index, main_index, type }`, the first in the high bits (R62, R14). -/
def packRecord (ty mainIndex subIndex : Byte) (timestamp : Word) : Record :=
  timestamp ++ subIndex ++ mainIndex ++ ty

/-- Byte i is `REC[8i+7:8i]`, byte 0 first (20_memory.md R47). -/
def recordBytes (r : Record) : List Byte :=
  [0, 1, 2, 3, 4, 5, 6].map fun i => r.extractLsb' (8 * i) 8

/-- The record that seven bytes serialise (R47). -/
def recordOfBytes : List Byte → Except WireError Record
  | [c0, c1, c2, c3, c4, c5, c6] => .ok (c6 ++ c5 ++ c4 ++ c3 ++ c2 ++ c1 ++ c0)
  | bytes => .error (.recordLength bytes.length)

/-! ### Decoding -/

/-- The operation of an edge (R59): every value of the control word is defined. `S` and `now_ms` are ignored by `RESET`
and `IDLE` (R100, R101). -/
def decodeEdge (e : Edge) : Instr :=
  match e.ctl.getLsbD 1, e.ctl.getLsbD 0 with
  | true, t => .reset t
  | false, true => .tick e.sample e.nowMs
  | false, false => .idle

/-- The button whose slot this is (R69). -/
def Slot.btn? : Slot → Option Btn
  | .s0 => none
  | .s1 => none
  | .s2 => some .b0
  | .s3 => some .b1

/-- The event row of a button kind. -/
def buttonEvent (kind : ButtonKind) (b : Btn) (mainIndex subIndex : Byte) (timestamp : Word) : Instr :=
  match kind with
  | .confirm => .evConfirm b mainIndex subIndex timestamp
  | .cancel => .evCancel b mainIndex subIndex timestamp
  | .aiPress => .evAiPress b mainIndex subIndex timestamp
  | .aiRelease => .evAiRelease b mainIndex subIndex timestamp

/-- The event record in slot k (R62, R63): a reserved type is refused (R64), and so is a kind that the slot cannot hold
(R69, log 7). -/
def decodeRecord (k : Slot) (r : Record) : Except DecodeError Instr :=
  match Kind.ofOrdinal (recordType r) with
  | none => .error (.reservedType (recordType r))
  | some .mainRotate =>
    if k = .s0 then .ok (.evMainRotate (recordMain r) (recordSub r) (recordTime r))
    else .error (.kindNotOfSlot (recordType r) k)
  | some .subRotate =>
    if k = .s1 then .ok (.evSubRotate (recordMain r) (recordSub r) (recordTime r))
    else .error (.kindNotOfSlot (recordType r) k)
  | some (.button kind) =>
    match k.btn? with
    | some b => .ok (buttonEvent kind b (recordMain r) (recordSub r) (recordTime r))
    | none => .error (.kindNotOfSlot (recordType r) k)

/-- A record as the bytes of the wire (R47). -/
def decodeRecordBytes (k : Slot) (bytes : List Byte) : Except WireError Instr :=
  match recordOfBytes bytes with
  | .ok r =>
    match decodeRecord k r with
    | .ok i => .ok i
    | .error e => .error (.record e)
  | .error e => .error e

/-- The instruction of an input word. -/
def decode : Stimulus → Except DecodeError Instr
  | .edge e => .ok (decodeEdge e)
  | .record k r => decodeRecord k r

/-! ### Encoding -/

/-- The control word `{rst, tick}` (R59), with the ignored ports at 0 where the operation ignores them. -/
def encodeEdge (rst tick : Bool) (sample : Sample) (nowMs : Word) : Stimulus :=
  .edge ⟨BitVec.ofBool rst ++ BitVec.ofBool tick, sample, nowMs⟩

/-- The record of a kind in its slot (R62, R63, R69). -/
def encodeEvent (kind : Kind) (k : Slot) (mainIndex subIndex : Byte) (timestamp : Word) : Stimulus :=
  .record k (packRecord kind.ordinal mainIndex subIndex timestamp)

/-- The input word of an instruction. -/
def encode : Instr → Stimulus
  | .reset lostTick => encodeEdge true lostTick 0 0
  | .tick sample nowMs => encodeEdge false true sample nowMs
  | .idle => encodeEdge false false 0 0
  | .evMainRotate m s t => encodeEvent .mainRotate .s0 m s t
  | .evSubRotate m s t => encodeEvent .subRotate .s1 m s t
  | .evConfirm b m s t => encodeEvent (.button .confirm) b.slot m s t
  | .evCancel b m s t => encodeEvent (.button .cancel) b.slot m s t
  | .evAiPress b m s t => encodeEvent (.button .aiPress) b.slot m s t
  | .evAiRelease b m s t => encodeEvent (.button .aiRelease) b.slot m s t

/-! ### The words of spec/opcode_table.json -/

/-- The slot a table word of an event row is read in, since the table gives a record without its slot: 0 and 1 for the
rotation kinds (R69), for a button kind the slot the default routes give it (R10), and slot 2 for Cancel (log 6). -/
def tableSlot (r : Record) : Slot :=
  match Kind.ofOrdinal (recordType r) with
  | some .subRotate => .s1
  | some (.button .confirm) => .s2
  | some (.button .cancel) => .s2
  | some (.button .aiPress) => .s3
  | some (.button .aiRelease) => .s3
  | _ => .s0

/-- The input word of a table word. The table has two formats whose words overlap: a word of at most 8 bits below 4 is a
control word, with `S` and `now_ms` at 0; every other word is a record (log 5). -/
def tableStimulus (nbits w : Nat) : Stimulus :=
  let v := w % 2 ^ nbits
  if nbits ≤ 8 ∧ v < 4 then .edge ⟨BitVec.ofNat 2 v, 0, 0⟩
  else .record (tableSlot (BitVec.ofNat 56 v)) (BitVec.ofNat 56 v)

/-- What the decoder reads from a table word. -/
def decodeTableWord (nbits w : Nat) : Option Instr :=
  match decode (tableStimulus nbits w) with
  | .ok i => some i
  | .error _ => none

/-! ### Configurations (00_scope.md R9, R10; 30_encoding.md R66) -/

/-- A 3-bit route code: 2 to 5 a kind, 7 `NONE`; 0, 1 and 6 are refused (R66). -/
def routeOfCode (code : BitVec 3) : Except ConfigError (Option ButtonKind) :=
  if code = 2 then .ok (some .confirm)
  else if code = 3 then .ok (some .cancel)
  else if code = 4 then .ok (some .aiPress)
  else if code = 5 then .ok (some .aiRelease)
  else if code = 7 then .ok none
  else .error (.routeCode code)

/-- The code of a route member (R66). -/
def routeCode : Option ButtonKind → BitVec 3
  | some .confirm => 2
  | some .cancel => 3
  | some .aiPress => 4
  | some .aiRelease => 5
  | none => 7

/-- One button's route from its two codes. -/
def routeOfCodes (press release : BitVec 3) : Except ConfigError Route :=
  match routeOfCode press, routeOfCode release with
  | .ok p, .ok r => .ok ⟨p, r⟩
  | .error e, _ => .error e
  | .ok _, .error e => .error e

/-- Accept or refuse a configuration before the run starts (60_exceptions.md R117). -/
def loadConfig (r : RawConfig) : Except ConfigError Config :=
  if r.warm < 1 ∨ 15 < r.warm then .error (.warmOutOfRange r.warm)
  else
    match routeOfCodes r.onPress.b0 r.onRelease.b0, routeOfCodes r.onPress.b1 r.onRelease.b1 with
    | .ok r0, .ok r1 => .ok ⟨r.debMs, r.coolMs, r.rateMs, BitVec.ofNat 4 r.warm, ⟨r0, r1⟩⟩
    | .error e, _ => .error e
    | .ok _, .error e => .error e

/-- The raw numbers of a configuration. -/
def rawConfig (c : Config) : RawConfig where
  debMs := c.debMs
  coolMs := c.coolMs
  rateMs := c.rateMs
  warm := c.warm.toNat
  onPress := ⟨routeCode c.route.b0.onPress, routeCode c.route.b1.onPress⟩
  onRelease := ⟨routeCode c.route.b0.onRelease, routeCode c.route.b1.onRelease⟩

end Sys2Proof
end

