-- ==== Sys2Proof/Machine/State.lean ====
section
/-! DEFINITION. The state of QDEC-EVR as plain data (10_state.md R21): `Block` holds exactly the registers of R22 to R37;
`State` adds the model's own fields: the configuration and the input words not yet presented (logs 1 to 3). -/

namespace Sys2Proof.Machine

/-- One decoder's registers (10_state.md R25 to R28). -/
structure QdecRegs where
  /-- `QD_CLK[e]` -/
  clk : Bool
  /-- `QD_DT[e]`, read by no rule (R26) -/
  dt : Bool
  /-- `QD_ACC_TS[e]` -/
  accTs : Word
  /-- `QD_ACC_VLD[e]` -/
  accVld : Bool
deriving DecidableEq, Repr

/-- One rate-limit channel's registers (R29, R30). -/
structure RateRegs where
  /-- `RL_TS[c]` -/
  ts : Word
  /-- `RL_VLD[c]` -/
  vld : Bool
deriving DecidableEq, Repr

/-- One button's registers (R31 to R34). -/
structure ButtonRegs where
  /-- `BT_LINE[b]` -/
  line : Bool
  /-- `BT_PRESSED[b]` -/
  pressed : Bool
  /-- `BT_REL_TS[b]` -/
  relTs : Word
  /-- `BT_REL_VLD[b]` -/
  relVld : Bool
deriving DecidableEq, Repr

/-- The complete state of the block, "exactly these fields and nothing else" (R21). -/
structure Block where
  /-- `WARM` (R22) -/
  warm : BitVec 4
  /-- `MAIN_IDX` (R23) -/
  mainIdx : Byte
  /-- `SUB_IDX` (R24) -/
  subIdx : Byte
  /-- `QD_*[e]` (R25 to R28) -/
  qdec : PerChan QdecRegs
  /-- `RL_*[c]` (R29, R30) -/
  rl : PerChan RateRegs
  /-- `BT_*[b]` (R31 to R34) -/
  bt : PerBtn ButtonRegs
  /-- `EV_VALID` (R35) -/
  evValid : BitVec 4
  /-- `EV_SLOT[k]` (R36) -/
  evSlot : PerSlot Record
  /-- `LC_TICK` (R37) -/
  lcTick : Bool
  /-- `LC_NOW` (R37) -/
  lcNow : Word
deriving DecidableEq, Repr

/-- The model's state: the block, and beside it what the spec says is no register of the block. -/
structure State where
  /-- the registers of R21 -/
  block : Block
  /-- the parameters of 00_scope.md R6 to R10, constant for the run (R13, log 1) -/
  cfg : Config
  /-- the input words still to be presented, the next one first (log 2) -/
  stimulus : List Stimulus
  /-- how many edges have had free port values (log 3) -/
  freeEdges : Nat
deriving DecidableEq, Repr

/-- No step of this hardware faults: "A model's step function for this block therefore has no fault outcome"
(60_exceptions.md R117). Safe: nothing raises a fault. -/
inductive Fault
deriving DecidableEq, Repr

/-- Why a step is refused. -/
inductive Refusal
  /-- Raised by `exec` for an instruction that has no meaning in this model yet. Safe: the run stops. -/
  | notModelled (mnemonic : String)
  /-- Raised by `step` when the configuration is not accepted, `P_WARM` = 0 (00_scope.md R9, 60_exceptions.md R117, log 8).
  Safe: the spec refuses the run. -/
  | configRefused
  /-- Raised by `step` on a record whose `type` is reserved (30_encoding.md R64, log 7). Safe: the spec refuses it. -/
  | reservedRecordType (ty : Byte)
  /-- Raised by `step` on a record in a slot that cannot hold its kind (R69, log 7). Safe: the run stops. -/
  | recordKindNotOfSlot (ty : Byte)
deriving DecidableEq, Repr

/-- A decoder after `RESET` (R25 to R28). -/
def QdecRegs.cleared : QdecRegs := ⟨false, false, 0, false⟩

/-- A rate channel after `RESET` (R29, R30). -/
def RateRegs.cleared : RateRegs := ⟨0, false⟩

/-- A button after `RESET` (R31 to R34). -/
def ButtonRegs.cleared : ButtonRegs := ⟨false, false, 0, false⟩

/-- Every register at the reset value of 10_state.md R22 to R37. -/
def Block.cleared : Block where
  warm := 0
  mainIdx := 0
  subIdx := 0
  qdec := ⟨QdecRegs.cleared, QdecRegs.cleared⟩
  rl := ⟨RateRegs.cleared, RateRegs.cleared⟩
  bt := ⟨ButtonRegs.cleared, ButtonRegs.cleared⟩
  evValid := 0
  evSlot := ⟨0, 0, 0, 0⟩
  lcTick := false
  lcNow := 0

/-- The machine right after reset: the registers as 43_event_router.md R100 leaves them, the default configuration of
00_scope.md R6 to R10, and no stimulus (DESIGN CHOICE, logs 2 and 3). -/
def State.reset : State where
  block := Block.cleared
  cfg := Config.default
  stimulus := []
  freeEdges := 0

end Sys2Proof.Machine
end

