-- ==== Sys2Proof/Machine/Ops.lean ====
section
/-! DEFINITION. The named operations over the registers, the output slots and the input words, which the unit files and the
meanings share. The block has no memory (20_memory.md R44) and takes no exception (60_exceptions.md R117, R121), so there
is no memory operation and no exception entry here. -/

namespace Sys2Proof.Machine

/-! ### Register writes -/

def Block.setWarm (b : Block) (v : BitVec 4) : Block := { b with warm := v }

def Block.setMainIdx (b : Block) (v : Byte) : Block := { b with mainIdx := v }

def Block.setSubIdx (b : Block) (v : Byte) : Block := { b with subIdx := v }

def Block.setQdec (b : Block) (e : Chan) (r : QdecRegs) : Block := { b with qdec := b.qdec.set e r }

def Block.setRl (b : Block) (c : Chan) (r : RateRegs) : Block := { b with rl := b.rl.set c r }

def Block.setBt (b : Block) (i : Btn) (r : ButtonRegs) : Block := { b with bt := b.bt.set i r }

def State.setBlock (s : State) (b : Block) : State := { s with block := b }

def State.setStimulus (s : State) (l : List Stimulus) : State := { s with stimulus := l }

/-! ### The output registers -/

/-- Bit k of `EV_VALID`. -/
def Block.valid (b : Block) (k : Slot) : Bool := b.evValid.getLsbD k.index

/-- `v` with bit k set to `x`. -/
def putBit (v : BitVec 4) (k : Slot) (x : Bool) : BitVec 4 :=
  if x then v ||| 1#4 <<< k.index else v &&& ~~~(1#4 <<< k.index)

/-- `Emit(k, slot[k])` (43_event_router.md R110). -/
def emit (k : Slot) (slot : Option Record) (b : Block) : Block :=
  match slot with
  | none => { b with evValid := putBit b.evValid k false, evSlot := b.evSlot.set k 0 }
  | some r => { b with evValid := putBit b.evValid k true, evSlot := b.evSlot.set k r }

/-- `LcTick(now)` (R111). -/
def lcStrobe (now : Word) (b : Block) : Block := { b with lcTick := true, lcNow := now }

/-- The output registers as `IDLE` and the warm-up tick leave them: "zero when not valid" (R101, R103, 10_state.md R35 to
R37). -/
def clearOutputs (b : Block) : Block :=
  { b with evValid := 0, evSlot := ⟨0, 0, 0, 0⟩, lcTick := false, lcNow := 0 }

/-- `MakeEvent(kind, now)`: a record of the counters as they stand (R109). It writes no register. -/
def makeEvent (kind : Kind) (now : Word) (b : Block) : Record :=
  packRecord kind.ordinal b.mainIdx b.subIdx now

/-- `a +₈ d = (a + d) mod 256`, taken in the integers (00_scope.md R15, 43_event_router.md R112). -/
def addStep (a : Byte) (d : Int) : Byte := BitVec.ofInt 8 (a.toNat + d)

/-! ### What the transport sees (R116) -/

/-- `Events(st')`: the valid slots in ascending k (20_memory.md R52). -/
def Block.events (b : Block) : List Record :=
  (Slot.all.filter b.valid).map b.evSlot.get

/-- `Lifecycle(st')`. -/
def Block.lifecycle (b : Block) : Option Word := if b.lcTick then some b.lcNow else none

/-- One act of the consumer in a cycle. -/
inductive Delivery
  | deliver (r : Record)
  | tickLifecycle (now : Word)
deriving DecidableEq, Repr

/-- The cycle's acts in the order the consumer must perform them: the events in slot order, then the lifecycle tick
(R52, R53). -/
def Block.deliveries (b : Block) : List Delivery :=
  b.events.map .deliver ++ b.lifecycle.toList.map .tickLifecycle

/-! ### The input words -/

/-- The next input word and the state without it. When no stimulus is left, the host drives an edge whose values are free
(log 3). -/
def fetch (s : State) : Stimulus × State :=
  match s.stimulus with
  | x :: rest => (x, s.setStimulus rest)
  | [] =>
    (.edge ⟨Config.freeCtl s.freeEdges, Config.freeSample s.freeEdges, Config.freeNow s.freeEdges⟩,
      { s with freeEdges := s.freeEdges + 1 })

/-- The refusal of an input word that decodes to nothing. -/
def refusalOf : DecodeError → Refusal
  | .reservedType ty => .reservedRecordType ty
  | .kindNotOfSlot ty _ => .recordKindNotOfSlot ty

/-- An instruction that changes the block by `f` and nothing else. -/
def State.onBlock (f : Block → Block) (s : State) : Host.Outcome State Fault Refusal :=
  .next (s.setBlock (f s.block))

end Sys2Proof.Machine
end

