-- ==== Sys2Proof/Machine/Events.lean ====
section
/-! DEFINITION. The meanings of the six event rows: a record's effect inside the block is `Emit(k, rec)`, which "places
event record `rec` into output slot `k`" (00_scope.md R17, 43_event_router.md R110), k being the slot of the row's
source (30_encoding.md R69). The run tick's output stage is the same `emit` (Router.lean). DESIGN CHOICE, log 4. -/

namespace Sys2Proof.Machine

/-- `EV.MainRotate`: slot 0, main channel (R105). -/
def execEvMainRotate (mainIndex subIndex : Byte) (timestamp : Word) (s : State) : Host.Outcome State Fault Refusal :=
  s.onBlock (emit .s0 (some (packRecord Kind.mainRotate.ordinal mainIndex subIndex timestamp)))

/-- `EV.SubRotate`: slot 1, sub channel (R107). -/
def execEvSubRotate (mainIndex subIndex : Byte) (timestamp : Word) (s : State) : Host.Outcome State Fault Refusal :=
  s.onBlock (emit .s1 (some (packRecord Kind.subRotate.ordinal mainIndex subIndex timestamp)))

/-- `EV.Confirm`: the slot of its button (R108). -/
def execEvConfirm (b : Btn) (mainIndex subIndex : Byte) (timestamp : Word) (s : State) :
    Host.Outcome State Fault Refusal :=
  s.onBlock (emit b.slot (some (packRecord (Kind.button .confirm).ordinal mainIndex subIndex timestamp)))

/-- `EV.Cancel`: the slot of its button (R108). -/
def execEvCancel (b : Btn) (mainIndex subIndex : Byte) (timestamp : Word) (s : State) :
    Host.Outcome State Fault Refusal :=
  s.onBlock (emit b.slot (some (packRecord (Kind.button .cancel).ordinal mainIndex subIndex timestamp)))

/-- `EV.AiPress`: the slot of its button (R108). -/
def execEvAiPress (b : Btn) (mainIndex subIndex : Byte) (timestamp : Word) (s : State) :
    Host.Outcome State Fault Refusal :=
  s.onBlock (emit b.slot (some (packRecord (Kind.button .aiPress).ordinal mainIndex subIndex timestamp)))

/-- `EV.AiRelease`: the slot of its button (R108). -/
def execEvAiRelease (b : Btn) (mainIndex subIndex : Byte) (timestamp : Word) (s : State) :
    Host.Outcome State Fault Refusal :=
  s.onBlock (emit b.slot (some (packRecord (Kind.button .aiRelease).ordinal mainIndex subIndex timestamp)))

end Sys2Proof.Machine
end

