-- ==== Sys2Proof/Machine/Flags.lean ====
section
/-! DEFINITION. The time tests of the three filters, each over its valid bit (10_state.md R39): the block has no flags
register, and these are all its status computations. -/

namespace Sys2Proof.Machine

/-- `elapsed(now, ts) = (now - ts) mod 2^32` (00_scope.md R16). -/
def elapsed (now ts : Word) : Word := now - ts

/-- Decoder e's debounce window is open (40_quadrature_decoder.md R76). -/
def windowOpen (debMs : Word) (q : QdecRegs) (now : Word) : Bool :=
  q.accVld && decide (elapsed now q.accTs < debMs)

/-- The cooldown test of a button's press (41_edge_button.md R88). -/
def cooldownPasses (coolMs : Word) (r : ButtonRegs) (now : Word) : Bool :=
  !r.relVld || decide (coolMs ≤ elapsed now r.relTs)

/-- `RL_ALLOW(c, now)` (42_rate_limiter.md R96). -/
def rlAllow (rateMs : Word) (r : RateRegs) (now : Word) : Bool :=
  !r.vld || decide (rateMs ≤ elapsed now r.ts)

end Sys2Proof.Machine
end

