-- ==== Sys2Proof/Machine/Button.lean ====
section
/-! DEFINITION. The edge-triggered button debouncer and state machine (41_edge_button.md). -/

namespace Sys2Proof.Machine

/-- A button result (30_encoding.md R68). -/
inductive BtnEdge
  | noEdge
  | pressed
  | released
deriving DecidableEq, Repr

/-- The result that the two hardware bits `{edge, release}` stand for (R68). -/
def edgeOfBits (edge release : Bool) : BtnEdge :=
  match edge, release with
  | false, _ => .noEdge
  | true, false => .pressed
  | true, true => .released

/-- `BTN_POLL(b, a, now)` (R86): the press edge (R87, R88), the release edge (R89), and the level always stored (R90). -/
def btnPoll (coolMs : Word) (a : Bool) (now : Word) (r : ButtonRegs) : BtnEdge × ButtonRegs :=
  if a && !r.line && !r.pressed && cooldownPasses coolMs r now then
    (.pressed, { r with line := a, pressed := true })
  else if !a && r.line && r.pressed then
    (.released, { line := a, pressed := false, relTs := now, relVld := true })
  else (.noEdge, { r with line := a })

/-- `BTN_SETTLE(b, a)` (R92). -/
def btnSettle (a : Bool) : ButtonRegs := { line := a, pressed := false, relTs := 0, relVld := false }

/-- `route(b, r)`: the kind of an edge, `none` for `NONE` (43_event_router.md R108). -/
def routeKind (route : Route) : BtnEdge → Option ButtonKind
  | .noEdge => none
  | .pressed => route.onPress
  | .released => route.onRelease

end Sys2Proof.Machine
end

