-- ==== Sys2Proof/Machine/Operands.lean ====
section
/-! DEFINITION. The operands of a tick: the six line levels of the sample word `S[5:0]` (30_encoding.md R60). -/

namespace Sys2Proof.Machine

/-- The CLK level of an encoder: `S[0]` (MC) or `S[2]` (SC). -/
def clkLevel (e : Chan) (sample : Sample) : Bool :=
  match e with
  | .main => sample.getLsbD 0
  | .sub => sample.getLsbD 2

/-- The DT level of an encoder: `S[1]` (MD) or `S[3]` (SD). -/
def dtLevel (e : Chan) (sample : Sample) : Bool :=
  match e with
  | .main => sample.getLsbD 1
  | .sub => sample.getLsbD 3

/-- A button's `line_is_active` level: `S[4]` (B0) or `S[5]` (B1). -/
def btnLevel (b : Btn) (sample : Sample) : Bool :=
  match b with
  | .b0 => sample.getLsbD 4
  | .b1 => sample.getLsbD 5

end Sys2Proof.Machine
end

