-- ==== Sys2Proof/Machine/Quadrature.lean ====
section
/-! DEFINITION. The quadrature decoder with debounce (40_quadrature_decoder.md). -/

namespace Sys2Proof.Machine

/-- A decoder step, an integer in -1, 0, +1 (30_encoding.md R67). -/
inductive QStep
  | zero
  | plus
  | minus
deriving DecidableEq, Repr

/-- The step as an integer (R15). -/
def stepValue : QStep → Int
  | .zero => 0
  | .plus => 1
  | .minus => -1

/-- The step that the two hardware bits `{valid, up}` stand for; with `valid` = 0 the other bit is not read (30_encoding.md
R67). -/
def stepOfBits (valid up : Bool) : QStep :=
  match valid, up with
  | false, _ => .zero
  | true, true => .plus
  | true, false => .minus

/-- `QDEC_LOAD(e, c, d)`, the settling read (R74). -/
def qdecLoad (c d : Bool) (q : QdecRegs) : QdecRegs := { q with clk := c, dt := d }

/-- `QDEC_STEP(e, c, d, now)` (R75): inside the window nothing is evaluated (R76); outside it, a high-to-low CLK change is
a transition (R77), its direction is the current DT level (R78), and it is accepted (R79); the levels are always stored
(R80). -/
def qdecStep (debMs : Word) (c d : Bool) (now : Word) (q : QdecRegs) : QStep × QdecRegs :=
  if windowOpen debMs q now then (.zero, { q with clk := c, dt := d })
  else if q.clk && !c then
    (if d then .plus else .minus, { clk := c, dt := d, accTs := now, accVld := true })
  else (.zero, { q with clk := c, dt := d })

end Sys2Proof.Machine
end

