-- ==== Sys2Proof/Machine/RateLimit.lean ====
section
/-! DEFINITION. The update of a rate-limit channel (42_rate_limiter.md); its test is `rlAllow` in Flags.lean. -/

namespace Sys2Proof.Machine

/-- `RL_RECORD(c, now)` (R97). -/
def rlRecord (now : Word) : RateRegs := { ts := now, vld := true }

end Sys2Proof.Machine
end

