-- ==== Sys2Proof/Machine/Router.lean ====
section
/-! DEFINITION. The event router's tick (43_event_router.md): the warm-up tick, and the run tick as the sequence of its
stages. A stage answers the block after it and the record it puts in its slot; a later stage reads what an earlier one
wrote (00_scope.md R18). -/

namespace Sys2Proof.Machine

/-- One decoder's part of a warm-up tick: the settling read on the first tick, then a poll whose step is discarded (R103). -/
def warmDecoder (cfg : Config) (e : Chan) (sample : Sample) (now : Word) (b : Block) : Block :=
  if b.warm = 0 then b.setQdec e (qdecLoad (clkLevel e sample) (dtLevel e sample) (b.qdec.get e))
  else b.setQdec e (qdecStep cfg.debMs (clkLevel e sample) (dtLevel e sample) now (b.qdec.get e)).2

/-- One button's part of a warm-up tick (R103, 41_edge_button.md R92). -/
def warmButton (i : Btn) (sample : Sample) (b : Block) : Block := b.setBt i (btnSettle (btnLevel i sample))

/-- `WarmTick(S, now)` (R103). -/
def warmTick (cfg : Config) (sample : Sample) (now : Word) (b : Block) : Block :=
  let b1 := warmDecoder cfg .main sample now b
  let b2 := warmDecoder cfg .sub sample now b1
  let b3 := warmButton .b1 sample (warmButton .b0 sample b2)
  clearOutputs (b3.setWarm (b3.warm + 1))

/-- Stage 1, the main channel (R105): an emitted step moves `MAIN_IDX`, then clears `SUB_IDX` (R106), then records the
emission and builds the record. A step the rate limiter refuses is dropped. -/
def mainStage (cfg : Config) (sample : Sample) (now : Word) (b : Block) : Block × Option Record :=
  let p := qdecStep cfg.debMs (clkLevel .main sample) (dtLevel .main sample) now (b.qdec.get .main)
  let b1 := b.setQdec .main p.2
  if p.1 ≠ .zero ∧ rlAllow cfg.rateMs (b1.rl.get .main) now = true then
    let b2 := ((b1.setMainIdx (addStep b1.mainIdx (stepValue p.1))).setSubIdx 0).setRl .main (rlRecord now)
    (b2, some (makeEvent .mainRotate now b2))
  else (b1, none)

/-- Stage 2, the sub channel (R107). -/
def subStage (cfg : Config) (sample : Sample) (now : Word) (b : Block) : Block × Option Record :=
  let p := qdecStep cfg.debMs (clkLevel .sub sample) (dtLevel .sub sample) now (b.qdec.get .sub)
  let b1 := b.setQdec .sub p.2
  if p.1 ≠ .zero ∧ rlAllow cfg.rateMs (b1.rl.get .sub) now = true then
    let b2 := (b1.setSubIdx (addStep b1.subIdx (stepValue p.1))).setRl .sub (rlRecord now)
    (b2, some (makeEvent .subRotate now b2))
  else (b1, none)

/-- Stages 3 and 4, a button (R108). -/
def buttonStage (cfg : Config) (i : Btn) (sample : Sample) (now : Word) (b : Block) : Block × Option Record :=
  let p := btnPoll cfg.coolMs (btnLevel i sample) now (b.bt.get i)
  let b1 := b.setBt i p.2
  (b1, (routeKind (cfg.route.get i) p.1).map fun kind => makeEvent (.button kind) now b1)

/-- `RunTick(S, now)` (R104): the stages in their fixed order, then the output. -/
def runTick (cfg : Config) (sample : Sample) (now : Word) (b : Block) : Block :=
  let m := mainStage cfg sample now b
  let s := subStage cfg sample now m.1
  let p := buttonStage cfg .b0 sample now s.1
  let q := buttonStage cfg .b1 sample now p.1
  lcStrobe now (emit .s3 q.2 (emit .s2 p.2 (emit .s1 s.2 (emit .s0 m.2 q.1))))

/-- `TICK` on the block: the form is chosen by the phase (R102). -/
def tickBlock (cfg : Config) (sample : Sample) (now : Word) (b : Block) : Block :=
  if b.warm < cfg.warm then warmTick cfg sample now b else runTick cfg sample now b

end Sys2Proof.Machine
end

