-- ==== Sys2Proof/Machine/Interface.lean ====
section
/-! DEFINITION. The meanings of the three interface operations (43_event_router.md R100 to R102). -/

namespace Sys2Proof.Machine

/-- `RESET` (R100): every register to its reset value, whatever the tick bit says: "the tick is not performed and is lost"
(30_encoding.md R59). The configuration is no register (00_scope.md R13). -/
def execReset (_lostTick : Bool) (s : State) : Host.Outcome State Fault Refusal :=
  s.onBlock fun _ => Block.cleared

/-- `TICK` (R102). -/
def execTick (sample : Sample) (now : Word) (s : State) : Host.Outcome State Fault Refusal :=
  s.onBlock (tickBlock s.cfg sample now)

/-- `IDLE` (R101): the output registers are cleared, "every register of 10_state.md rules R22 to R34 keeps its value". -/
def execIdle (s : State) : Host.Outcome State Fault Refusal := s.onBlock clearOutputs

end Sys2Proof.Machine
end

