-- ==== Sys2Proof/Machine/Dispatch.lean ====
section
/-! DEFINITION. One arm per constructor of Instr. -/

namespace Sys2Proof.Machine

-- the interface operations, 30_encoding.md R59; the event records, 30_encoding.md R63
def exec (i : Instr) (s : State) : Host.Outcome State Fault Refusal :=
  match i with
  | .reset lostTick => Sys2Proof.Machine.execReset lostTick s
  | .tick sample nowMs => Sys2Proof.Machine.execTick sample nowMs s
  | .idle => Sys2Proof.Machine.execIdle s
  | .evMainRotate m u t => Sys2Proof.Machine.execEvMainRotate m u t s
  | .evSubRotate m u t => Sys2Proof.Machine.execEvSubRotate m u t s
  | .evConfirm b m u t => Sys2Proof.Machine.execEvConfirm b m u t s
  | .evCancel b m u t => Sys2Proof.Machine.execEvCancel b m u t s
  | .evAiPress b m u t => Sys2Proof.Machine.execEvAiPress b m u t s
  | .evAiRelease b m u t => Sys2Proof.Machine.execEvAiRelease b m u t s

end Sys2Proof.Machine
end

