-- ==== Sys2Proof/Machine/Step.lean ====
section
/-! DEFINITION. One step: one rising edge of `clk` performs exactly one operation (30_encoding.md R59, 43_event_router.md
R116). A configuration that is not accepted is refused (R9, log 8). -/

namespace Sys2Proof.Machine

/-- Present the next input word, decode it and run it. -/
def step (s : State) : Host.Outcome State Fault Refusal :=
  if s.cfg.accepted then
    match decode (fetch s).1 with
    | .ok i => exec i (fetch s).2
    | .error e => .refused (refusalOf e)
  else .refused .configRefused

/-- The state in which the next step runs the instruction of a table word: the word stands first in the stimulus (log 2). -/
def State.withFetchWord (s : State) (nbits w : Nat) : State :=
  s.setStimulus (tableStimulus nbits w :: s.stimulus)

end Sys2Proof.Machine
end

