-- ==== Sys2Proof/Safety.lean ====
section
/-! DEFINITION. What the claims speak of: edges and runs of edges, the state invariant, and the traces of one decoder and
one button under a list of polls. -/

namespace Sys2Proof

/-! ### Edges -/

/-- `rst` = 0 at this edge. -/
def Edge.noReset (e : Edge) : Bool := !e.ctl.getLsbD 1

/-- The edge performs a `TICK` (30_encoding.md R59). -/
def Edge.isTick (e : Edge) : Bool := !e.ctl.getLsbD 1 && e.ctl.getLsbD 0

/-- How many ticks a run of edges without `RESET` performs. -/
def ticksIn (es : List Edge) : Nat := (es.filter Edge.isTick).length

/-- An input word that is an edge: all that a host can drive (10_state.md R38). -/
def Stimulus.isEdge : Stimulus → Bool
  | .edge _ => true
  | .record _ _ => false

def edgesOnly (l : List Stimulus) : Bool := l.all Stimulus.isEdge

namespace Machine

/-! ### Runs -/

/-- `s` with the edge `e` presented next at its ports. -/
def State.presented (s : State) (e : Edge) : State := s.setStimulus (.edge e :: s.stimulus)

/-- Presenting the edges `es` one after another from `s`, one step each, ends in `t`. -/
def RunsTo : State → List Edge → State → Prop
  | s, [], t => s = t
  | s, e :: es, t => ∃ u, step (s.presented e) = .next u ∧ RunsTo u es t

/-- The block after `RESET` under a configuration, no input word left. -/
def State.fresh (cfg : Config) : State := { State.reset with cfg := cfg }

/-- The output registers are empty: no record, no strobe (10_state.md R35 to R37). -/
def Block.silent (b : Block) : Prop :=
  b.evValid = 0 ∧ b.evSlot = ⟨0, 0, 0, 0⟩ ∧ b.lcTick = false ∧ b.lcNow = 0

/-- The slot of a rotation channel (30_encoding.md R69). -/
def chanSlot : Chan → Slot
  | .main => .s0
  | .sub => .s1

/-! ### What the rules ask of a tick's inputs and registers -/

/-- Decoder e finds a transition outside its window: it accepts one (40_quadrature_decoder.md R76, R77, R79). -/
abbrev Accepts (cfg : Config) (e : Chan) (sample : Sample) (now : Word) (b : Block) : Prop :=
  ((b.qdec.get e).accVld = false ∨ cfg.debMs ≤ elapsed now (b.qdec.get e).accTs) ∧
    (b.qdec.get e).clk = true ∧ clkLevel e sample = false

/-- Channel c's step is also allowed by its limiter, so a run tick emits it (42_rate_limiter.md R96, 43_event_router.md
R105, R107). -/
abbrev Emits (cfg : Config) (c : Chan) (sample : Sample) (now : Word) (b : Block) : Prop :=
  Accepts cfg c sample now b ∧ ((b.rl.get c).vld = false ∨ cfg.rateMs ≤ elapsed now (b.rl.get c).ts)

/-- What an emitted step adds to its counter: 0x01 for +1, DT high; 0xFF for -1, DT low (R78, 30_encoding.md R67). -/
def stepByte (e : Chan) (sample : Sample) : Byte := if dtLevel e sample then 0x01 else 0xFF

/-- Button i's press edge (41_edge_button.md R87, R88). -/
abbrev Presses (cfg : Config) (i : Btn) (sample : Sample) (now : Word) (b : Block) : Prop :=
  btnLevel i sample = true ∧ (b.bt.get i).line = false ∧ (b.bt.get i).pressed = false ∧
    ((b.bt.get i).relVld = false ∨ cfg.coolMs ≤ elapsed now (b.bt.get i).relTs)

/-- Button i's release edge (R89). -/
abbrev Releases (i : Btn) (sample : Sample) (b : Block) : Prop :=
  btnLevel i sample = false ∧ (b.bt.get i).line = true ∧ (b.bt.get i).pressed = true

/-! ### The invariant -/

/-- A route that can produce this kind, on a press or on a release (00_scope.md R10). -/
def Route.produces (r : Route) (kind : ButtonKind) : Prop := r.onPress = some kind ∨ r.onRelease = some kind

/-- What holds of the block after every operation of a run (10_state.md R42, R43, R22 to R37; 70_reset_and_hazards.md
R131, R139; 43_event_router.md R106, R109, R110). -/
structure Block.Inv (cfg : Config) (b : Block) : Prop where
  /-- R43: `WARM` is in 0..`P_WARM` -/
  warm_le : b.warm ≤ cfg.warm
  /-- R42 -/
  pressed_line : ∀ i, (b.bt.get i).pressed = true → (b.bt.get i).line = true
  /-- R27, R28: the timestamp is written only with its valid bit -/
  acc_unset : ∀ e, (b.qdec.get e).accVld = false → (b.qdec.get e).accTs = 0
  /-- R29, R30 -/
  rl_unset : ∀ c, (b.rl.get c).vld = false → (b.rl.get c).ts = 0
  /-- R33, R34 -/
  rel_unset : ∀ i, (b.bt.get i).relVld = false → (b.bt.get i).relTs = 0
  /-- an emitted step was accepted (R79, R105, R107) -/
  emitted_accepted : ∀ c, (b.rl.get c).vld = true → (b.qdec.get c).accVld = true
  /-- before the settling read the units are as `RESET` left them (R25, R31) -/
  untouched : b.warm = 0 →
    b.qdec = ⟨QdecRegs.cleared, QdecRegs.cleared⟩ ∧ b.bt = ⟨ButtonRegs.cleared, ButtonRegs.cleared⟩
  /-- warm-up emits nothing and moves no counter, limiter or press (R103, R131, R139) -/
  warm_quiet : b.warm < cfg.warm →
    b.mainIdx = 0 ∧ b.subIdx = 0 ∧ b.rl = ⟨RateRegs.cleared, RateRegs.cleared⟩ ∧
    (∀ i, (b.bt.get i).pressed = false ∧ (b.bt.get i).relVld = false) ∧ b.silent
  /-- an empty slot holds 0 (R36) -/
  slot_empty : ∀ k, b.valid k = false → b.evSlot.get k = 0
  /-- records come only with the lifecycle strobe, from a run tick (R35, R37) -/
  valid_strobe : b.evValid ≠ 0 → b.lcTick = true
  /-- R37 -/
  strobe_unset : b.lcTick = false → b.lcNow = 0
  /-- slot 0 holds a MainRotate record of the counters, `sub_index` 0, emitted and accepted at this tick (R106, R109) -/
  slot_main : b.valid .s0 = true →
    b.evSlot.s0 = packRecord Kind.mainRotate.ordinal b.mainIdx 0 b.lcNow ∧
    b.rl.main = ⟨b.lcNow, true⟩ ∧ b.qdec.main.accTs = b.lcNow
  /-- slot 1 holds a SubRotate record of the counters (R107, R109) -/
  slot_sub : b.valid .s1 = true →
    b.evSlot.s1 = packRecord Kind.subRotate.ordinal b.mainIdx b.subIdx b.lcNow ∧
    b.rl.sub = ⟨b.lcNow, true⟩ ∧ b.qdec.sub.accTs = b.lcNow
  /-- slots 2 and 3 hold records of kinds of their button's route (R69, R108) -/
  slot_button : ∀ i : Btn, b.valid i.slot = true →
    ∃ kind, Route.produces (cfg.route.get i) kind ∧
      b.evSlot.get i.slot = packRecord (Kind.button kind).ordinal b.mainIdx b.subIdx b.lcNow

/-- The invariant of a run: the configuration is accepted, the host drives edges only, and the block is as above. -/
structure State.Inv (s : State) : Prop where
  accepted : s.cfg.accepted = true
  edges : edgesOnly s.stimulus = true
  block : s.block.Inv s.cfg

/-! ### Traces of one unit -/

/-- One poll of a decoder: the CLK level, the DT level, the time. -/
structure DecoderPoll where
  clk : Bool
  dt : Bool
  now : Word
deriving DecidableEq, Repr

/-- The times of the accepted transitions under a list of polls (40_quadrature_decoder.md R79). -/
def acceptedTimes (debMs : Word) : QdecRegs → List DecoderPoll → List Word
  | _, [] => []
  | q, p :: rest =>
    let r := qdecStep debMs p.clk p.dt p.now q
    if r.1 = .zero then acceptedTimes debMs r.2 rest else p.now :: acceptedTimes debMs r.2 rest

/-- The decoder's registers after a list of polls. -/
def decoderAfter (debMs : Word) : QdecRegs → List DecoderPoll → QdecRegs
  | q, [] => q
  | q, p :: rest => decoderAfter debMs (qdecStep debMs p.clk p.dt p.now q).2 rest

/-- Each time is at least `d` after the one before it, as `elapsed` measures. -/
def Spaced (d : Word) : List Word → Prop
  | a :: b :: rest => d ≤ elapsed b a ∧ Spaced d (b :: rest)
  | _ => True

/-- One poll of a button: the level and the time. -/
structure ButtonPoll where
  level : Bool
  now : Word
deriving DecidableEq, Repr

/-- The edges a button reports under a list of polls, with their times. -/
def buttonEdges (coolMs : Word) : ButtonRegs → List ButtonPoll → List (BtnEdge × Word)
  | _, [] => []
  | r, p :: rest =>
    let x := btnPoll coolMs p.level p.now r
    if x.1 = .noEdge then buttonEdges coolMs x.2 rest else (x.1, p.now) :: buttonEdges coolMs x.2 rest

/-- The button's registers after a list of polls. -/
def buttonAfter (coolMs : Word) : ButtonRegs → List ButtonPoll → ButtonRegs
  | r, [] => r
  | r, p :: rest => buttonAfter coolMs (btnPoll coolMs p.level p.now r).2 rest

/-- Presses and releases alternate, and a press is at least `coolMs` after the release before it. `pressed` says whether
a press is open, `lastRelease` is the last release recorded. -/
def Alternates (coolMs : Word) : Bool → Option Word → List (BtnEdge × Word) → Prop
  | _, _, [] => True
  | pressed, lastRelease, (.pressed, t) :: rest =>
    pressed = false ∧ (∀ t0, lastRelease = some t0 → coolMs ≤ elapsed t t0) ∧ Alternates coolMs true lastRelease rest
  | pressed, _, (.released, t) :: rest => pressed = true ∧ Alternates coolMs false (some t) rest
  | _, _, (.noEdge, _) :: _ => False

/-- The last release a button has recorded (10_state.md R33, R34). -/
def ButtonRegs.lastRelease (r : ButtonRegs) : Option Word := if r.relVld then some r.relTs else none

/-! ### What a claim of independence forgets -/

/-- The block with both `QD_DT` bits forgotten (10_state.md R26). -/
def Block.forgetDt (b : Block) : Block :=
  { b with qdec := ⟨{ b.qdec.main with dt := false }, { b.qdec.sub with dt := false }⟩ }

end Machine

end Sys2Proof
end

