-- ==== Sys2Proof/Certificates/Slice0/Obligations.lean ====
section
/-! DEFINITION. The statements for the provers. Each cites the rules of spec/ it formalises; those that rest on a choice of
the model name the log entry. Statements about all states hold also where no run reaches (log 9). -/

open Sys2Proof Sys2Proof.Machine

/-! ### Encodings (30_encoding.md, 20_memory.md) -/

/-- Decoding what the encoder writes gives the instruction back, with every operand at every value. -/
def Obligations.DecodeOfEncodeIsTheInstruction : Prop :=
  ∀ i : Instr, decode (encode i) = .ok i

/-- Each record and each `TICK` edge has one meaning: encoding what was decoded gives the same word. -/
def Obligations.EncodeOfDecodedWordIsTheWord : Prop :=
  (∀ k r i, decode (.record k r) = .ok i → encode i = .record k r) ∧
  (∀ e sample now, decode (.edge e) = .ok (.tick sample now) → encode (.tick sample now) = .edge e)

/-- Words written out from R59, R60, R62, R63 and R72 decode to their operation. -/
def Obligations.WrittenOutWordsDecode : Prop :=
  decode (.edge ⟨0b10, 0x3F, 7⟩) = .ok (.reset false) ∧
  decode (.edge ⟨0b11, 0x00, 0⟩) = .ok (.reset true) ∧
  decode (.edge ⟨0b01, 0x0E, 200⟩) = .ok (.tick 0x0E 200) ∧
  decode (.edge ⟨0b00, 0x3F, 9⟩) = .ok .idle ∧
  decode (.record .s0 0x000000C8000100) = .ok (.evMainRotate 1 0 200) ∧
  decode (.record .s1 0x0000012CFF0001) = .ok (.evSubRotate 0 255 300) ∧
  decode (.record .s2 0x0000014000FF02) = .ok (.evConfirm .b0 255 0 320) ∧
  decode (.record .s2 0x00000064000003) = .ok (.evCancel .b0 0 0 100) ∧
  decode (.record .s3 0x000001F4010104) = .ok (.evAiPress .b1 1 1 500) ∧
  decode (.record .s3 0x00000028000005) = .ok (.evAiRelease .b1 0 0 40)

/-- R64: a record of reserved type is refused and never decoded as a kind, and no tick puts one in a valid slot. -/
def Obligations.ReservedRecordTypesAreRefusedAndNeverProduced : Prop :=
  (∀ k r, 6 ≤ recordType r →
    decode (.record k r) = .error (.reservedType (recordType r)) ∧
    ∀ s rest, s.cfg.accepted = true → s.stimulus = .record k r :: rest →
      step s = .refused (.reservedRecordType (recordType r))) ∧
  (∀ sample now s t k, exec (.tick sample now) s = .next t → t.block.valid k = true →
    recordType (t.block.evSlot.get k) < 6)

/-- R69: a tick's slots hold the kinds of their sources. -/
def Obligations.SlotsHoldTheKindsOfTheirSource : Prop :=
  ∀ sample now s t, exec (.tick sample now) s = .next t →
    (t.block.valid .s0 = true → recordType (t.block.evSlot.get .s0) = 0) ∧
    (t.block.valid .s1 = true → recordType (t.block.evSlot.get .s1) = 1) ∧
    (t.block.valid .s2 = true → ∃ kind, Route.produces s.cfg.route.b0 kind ∧
      recordType (t.block.evSlot.get .s2) = (Kind.button kind).ordinal) ∧
    (t.block.valid .s3 = true → ∃ kind, Route.produces s.cfg.route.b1 kind ∧
      recordType (t.block.evSlot.get .s3) = (Kind.button kind).ordinal)

/-- The model's choice (log 7): a record met in a slot that cannot hold its kind is refused by name. -/
def Obligations.MisplacedRecordsAreRefused : Prop :=
  ∀ k r s rest, s.cfg.accepted = true → s.stimulus = .record k r :: rest →
    (recordType r = 0 ∧ k ≠ .s0 ∨ recordType r = 1 ∧ k ≠ .s1 ∨
      2 ≤ recordType r ∧ recordType r ≤ 5 ∧ (k = .s0 ∨ k = .s1)) →
    step s = .refused (.recordKindNotOfSlot (recordType r))

/-- R47: byte i of a record is `REC[8i+7:8i]`: type, main_index, sub_index, then the timestamp, least significant byte first. -/
def Obligations.RecordBytesAreLittleEndian : Prop :=
  (∀ (ty m u : Byte) (t : Word), recordBytes (packRecord ty m u t) =
    [ty, m, u, t.extractLsb' 0 8, t.extractLsb' 8 8, t.extractLsb' 16 8, t.extractLsb' 24 8]) ∧
  (∀ (r : Record) (i : Nat), i < 7 → (recordBytes r)[i]? = some (r.extractLsb' (8 * i) 8)) ∧
  (∀ r : Record, (recordBytes r).length = 7 ∧ recordOfBytes (recordBytes r) = .ok r) ∧
  (∀ bytes r, recordOfBytes bytes = .ok r → recordBytes r = bytes)

/-- R62, R63: a record as a number; the six ordinals; its fields, with `main_index`, `sub_index` the counters when it is built and `timestamp` the
tick's `now_ms`; `sub_index` of the MainRotate record of a tick is 0. -/
def Obligations.RecordFieldsAndNumber : Prop :=
  (Kind.mainRotate.ordinal = 0 ∧ Kind.subRotate.ordinal = 1 ∧ (Kind.button .confirm).ordinal = 2 ∧
    (Kind.button .cancel).ordinal = 3 ∧ (Kind.button .aiPress).ordinal = 4 ∧ (Kind.button .aiRelease).ordinal = 5) ∧
  (∀ (ty m u : Byte) (t : Word), (packRecord ty m u t).toNat =
    ty.toNat + m.toNat * 2 ^ 8 + u.toNat * 2 ^ 16 + t.toNat * 2 ^ 24) ∧
  (∀ kind now b, recordType (makeEvent kind now b) = kind.ordinal ∧ recordMain (makeEvent kind now b) = b.mainIdx ∧
    recordSub (makeEvent kind now b) = b.subIdx ∧ recordTime (makeEvent kind now b) = now) ∧
  (∀ sample now s t, exec (.tick sample now) s = .next t → t.block.valid .s0 = true →
    recordSub (t.block.evSlot.get .s0) = 0)

/-- R9, R66: which configurations are admitted, and that an admitted one is read back whole. -/
def Obligations.ConfigurationsAreAdmittedOrRefused : Prop :=
  (∀ r : RawConfig, (∃ c, loadConfig r = .ok c) ↔ 1 ≤ r.warm ∧ r.warm ≤ 15 ∧
    ∀ code ∈ [r.onPress.b0, r.onPress.b1, r.onRelease.b0, r.onRelease.b1], code ≠ 0 ∧ code ≠ 1 ∧ code ≠ 6) ∧
  (∀ r c, loadConfig r = .ok c → c.accepted = true ∧ rawConfig c = r) ∧
  (∀ c : Config, c.accepted = true → loadConfig (rawConfig c) = .ok c)

/-! ### The step (43_event_router.md R116, 30_encoding.md R59) -/

/-- A step runs the decoded instruction: the next input word, decoded, run by exec on the state without that word. With no
word left the host's edge is free (the model's choice, logs 2 and 3); a word that decodes to nothing and a configuration
that is not accepted are refused by name (logs 7 and 8). -/
def Obligations.StepRunsTheDecodedInstruction : Prop :=
  (∀ s x rest i, s.cfg.accepted = true → s.stimulus = x :: rest → decode x = .ok i →
    step s = exec i { s with stimulus := rest }) ∧
  (∀ s i, s.cfg.accepted = true → s.stimulus = [] →
    decode (.edge ⟨Config.freeCtl s.freeEdges, Config.freeSample s.freeEdges, Config.freeNow s.freeEdges⟩) = .ok i →
    step s = exec i { s with freeEdges := s.freeEdges + 1 }) ∧
  (∀ s x rest e, s.cfg.accepted = true → s.stimulus = x :: rest → decode x = .error e →
    step s = .refused (refusalOf e)) ∧
  (∀ s, s.cfg.warm = 0 → step s = .refused .configRefused)

/-- R59: the control word selects exactly one operation; when `rst` and `tick` are both 1 the tick is lost. -/
def Obligations.ControlWordSelectsTheOperation : Prop :=
  ∀ (s : State) (e : Edge) rest, s.cfg.accepted = true → s.stimulus = .edge e :: rest →
    (e.ctl = 0b10 ∨ e.ctl = 0b11 → step s = exec (.reset false) { s with stimulus := rest }) ∧
    (e.ctl = 0b01 → step s = exec (.tick e.sample e.nowMs) { s with stimulus := rest }) ∧
    (e.ctl = 0b00 → step s = exec .idle { s with stimulus := rest })

/-- R117: no operation raises an exception and every operation completes; the configurations it must refuse are refused when
they are loaded (where the step meets one, StepRunsTheDecodedInstruction says, log 8). -/
def Obligations.NoFaultAndEveryEdgeCompletes : Prop :=
  (∀ s, s.cfg.accepted = true → edgesOnly s.stimulus = true → ∃ t, step s = .next t) ∧
  (∀ s f, step s ≠ .fault f) ∧
  (∀ r : RawConfig, r.warm = 0 → ∃ e, loadConfig r = .error e) ∧
  (∀ (r : RawConfig) (code : BitVec 3), code = 0 ∨ code = 1 ∨ code = 6 →
    code ∈ [r.onPress.b0, r.onPress.b1, r.onRelease.b0, r.onRelease.b1] → ∃ e, loadConfig r = .error e)

/-- The configuration is constant for a run (R13): no instruction and no step writes it. No instruction touches the input
words, and a step takes exactly the one it runs (the model's choice, logs 2 and 3). -/
def Obligations.StepsKeepTheConfiguration : Prop :=
  (∀ i s, ∃ t, exec i s = .next t ∧ t.cfg = s.cfg ∧ t.stimulus = s.stimulus ∧ t.freeEdges = s.freeEdges) ∧
  (∀ s t, step s = .next t → t.cfg = s.cfg ∧ t.stimulus = s.stimulus.tail ∧
    t.freeEdges = if s.stimulus = [] then s.freeEdges + 1 else s.freeEdges)

/-! ### RESET and IDLE (43_event_router.md R100, R101) -/

/-- R100: `RESET` returns every register to its reset value, whatever the tick bit; repeated, it is one `RESET`; after it
the block is in the warm-up phase and the next tick is the settling read. -/
def Obligations.ResetClearsEveryRegister : Prop :=
  ∀ lostTick s, ∃ t, exec (.reset lostTick) s = .next t ∧
    t.block.warm = 0 ∧ t.block.mainIdx = 0 ∧ t.block.subIdx = 0 ∧
    (∀ e, t.block.qdec.get e = { clk := false, dt := false, accTs := 0, accVld := false }) ∧
    (∀ c, t.block.rl.get c = { ts := 0, vld := false }) ∧
    (∀ i, t.block.bt.get i = { line := false, pressed := false, relTs := 0, relVld := false }) ∧
    t.block.evValid = 0 ∧ (∀ k, t.block.evSlot.get k = 0) ∧ t.block.lcTick = false ∧ t.block.lcNow = 0 ∧
    t.cfg = s.cfg ∧ t.stimulus = s.stimulus ∧ t.freeEdges = s.freeEdges ∧
    (∀ again, exec (.reset again) t = .next t) ∧
    (s.cfg.accepted = true → ∀ sample now, ∃ u, exec (.tick sample now) t = .next u ∧ u.block.warm = 1 ∧
      ∀ e, u.block.qdec.get e = { clk := clkLevel e sample, dt := dtLevel e sample, accTs := 0, accVld := false })

/-- R101: `IDLE` clears the output registers and keeps every other register; it produces no output, and any number of them
is one. -/
def Obligations.IdleClearsTheOutputsOnly : Prop :=
  ∀ s : State, ∃ t, exec .idle s = .next t ∧
    t = { s with block := { s.block with evValid := 0, evSlot := ⟨0, 0, 0, 0⟩, lcTick := false, lcNow := 0 } } ∧
    t.block.deliveries = [] ∧ exec .idle t = .next t

/-- "Any number of `IDLE` operations may come between two ticks": dropping the `IDLE` edges (`CTL` = 0b00) of a run that
ends in another operation changes nothing of its end state. -/
def Obligations.IdleEdgesAreInvisible : Prop :=
  ∀ (s : State) (es : List Edge) (e : Edge), s.cfg.accepted = true → e.ctl ≠ 0b00 →
    ∃ t, RunsTo s (es ++ [e]) t ∧ RunsTo s (es.filter (fun x => x.ctl ≠ 0b00) ++ [e]) t

/-- `RESET` forgets the past: what follows it is what follows a fresh block. -/
def Obligations.ResetForgetsThePast : Prop :=
  ∀ (s : State) (e : Edge) (es : List Edge), s.cfg.accepted = true → e.ctl = 0b10 ∨ e.ctl = 0b11 →
    ∃ t u, RunsTo s (e :: es) t ∧ RunsTo (State.fresh s.cfg) es u ∧ t.block = u.block

/-- The output registers feed nothing back: no operation's result depends on them (R51, R35 to R37). -/
def Obligations.OutputsHaveNoFeedback : Prop :=
  ∀ (s : State) (v : BitVec 4) (slots : PerSlot Record) (strobe : Bool) (n : Word) (i : Instr),
    (i = .idle ∨ (∃ x, i = .reset x) ∨ ∃ sample now, i = .tick sample now) →
    exec i { s with block := { s.block with evValid := v, evSlot := slots, lcTick := strobe, lcNow := n } } = exec i s

/-! ### The warm-up phase (43_event_router.md R103, 70_reset_and_hazards.md R131, R139) -/

/-- R103: what a warm-up tick does to every register. -/
def Obligations.WarmTickEffects : Prop :=
  ∀ sample now s, s.block.warm < s.cfg.warm → ∃ t, exec (.tick sample now) s = .next t ∧
    t.block.warm = s.block.warm + 1 ∧ t.block.mainIdx = s.block.mainIdx ∧ t.block.subIdx = s.block.subIdx ∧
    t.block.rl = s.block.rl ∧
    (∀ i, t.block.bt.get i = { line := btnLevel i sample, pressed := false, relTs := 0, relVld := false }) ∧
    (∀ e, t.block.qdec.get e =
      if s.block.warm ≠ 0 ∧ Accepts s.cfg e sample now s.block then
        { clk := false, dt := dtLevel e sample, accTs := now, accVld := true }
      else { s.block.qdec.get e with clk := clkLevel e sample, dt := dtLevel e sample }) ∧
    t.block.silent ∧ t.cfg = s.cfg ∧ t.stimulus = s.stimulus ∧ t.freeEdges = s.freeEdges

/-- R22: only the warm-up tick counts `WARM`, by 1, only `RESET` clears it, and no operation takes it above `P_WARM`. -/
def Obligations.WarmCountsTheWarmUpTicks : Prop :=
  ∀ i s, ∃ t, exec i s = .next t ∧
    t.block.warm.toNat = (match i with
      | .reset _ => 0
      | .tick _ _ => if s.block.warm < s.cfg.warm then s.block.warm.toNat + 1 else s.block.warm.toNat
      | _ => s.block.warm.toNat) ∧
    (s.block.warm ≤ s.cfg.warm → t.block.warm ≤ s.cfg.warm)

/-- After `RESET`, exactly `P_WARM` ticks are warm-up ticks, whatever `IDLE` edges lie between them; until the tick after
them no event and no strobe is seen, and no counter or limiter has moved (R131, R43, R139). -/
def Obligations.WarmUpLastsExactlyPWarmTicks : Prop :=
  ∀ (cfg : Config) (es : List Edge), cfg.accepted = true → (∀ e ∈ es, e.noReset = true) →
    ∃ t, RunsTo (State.fresh cfg) es t ∧ t.block.warm.toNat = min (ticksIn es) cfg.warm.toNat ∧
      (ticksIn es ≤ cfg.warm.toNat → t.block.silent ∧ t.block.mainIdx = 0 ∧ t.block.subIdx = 0 ∧
        (∀ c, (t.block.rl.get c).vld = false) ∧ ∀ i, (t.block.bt.get i).pressed = false) ∧
      (ticksIn es > cfg.warm.toNat → ∀ e, es.getLast? = some e → e.isTick = true →
        t.block.lcTick = true ∧ t.block.lcNow = e.nowMs)

/-- A CLK fall of either channel that warm-up tick 2 to `P_WARM` accepts opens a window that lasts into the run phase (R139,
program P5): through any edges whose ticks lie inside it the channel emits nothing; with CLK sampled high again, a later fall
still inside it is consumed, and one at `P_DEB_MS` or more is accepted, and emitted in the run phase if the channel had emitted
nothing before. -/
def Obligations.WarmUpFallOpensTheWindow : Prop :=
  ∀ (c : Chan) (s : State) (sample : Sample) (now : Word) (es : List Edge) (e : Edge), s.cfg.accepted = true →
    s.block.warm ≠ 0 → s.block.warm < s.cfg.warm → Accepts s.cfg c sample now s.block →
    (∀ x ∈ es, x.noReset = true ∧ (x.isTick = true → elapsed x.nowMs now < s.cfg.debMs)) →
    e.isTick = true → clkLevel c e.sample = false →
    ∃ t u v, exec (.tick sample now) s = .next t ∧ RunsTo t es u ∧ RunsTo u [e] v ∧
      t.block.silent ∧ u.block.valid (chanSlot c) = false ∧
      ((u.block.qdec.get c).clk = true →
        (elapsed e.nowMs now < s.cfg.debMs →
          v.block.valid (chanSlot c) = false ∧ (v.block.qdec.get c).accTs = now ∧
          (c = .main → v.block.mainIdx = s.block.mainIdx) ∧
          (c = .sub → v.block.subIdx = s.block.subIdx ∨ v.block.subIdx = 0) ∧
          (u.block.warm = s.cfg.warm → v.block.lcTick = true)) ∧
        (s.cfg.debMs ≤ elapsed e.nowMs now →
          (v.block.qdec.get c).accTs = e.nowMs ∧
          (u.block.warm = s.cfg.warm → (s.block.rl.get c).vld = false → v.block.valid (chanSlot c) = true)))

/-! ### The run tick (43_event_router.md R104 to R111) -/

/-- R111: every run tick asserts the strobe with its `now`, whether or not it emits, and the transport acts on it after the
slots; it never writes `WARM` (R22). -/
def Obligations.RunTickStrobesTheLifecycle : Prop :=
  ∀ sample now s, ¬ s.block.warm < s.cfg.warm → ∃ t, exec (.tick sample now) s = .next t ∧
    t.block.lcTick = true ∧ t.block.lcNow = now ∧ t.block.lifecycle = some now ∧
    t.block.deliveries = t.block.events.map .deliver ++ [.tickLifecycle now] ∧ t.block.warm = s.block.warm ∧
    t.cfg = s.cfg ∧ t.stimulus = s.stimulus ∧ t.freeEdges = s.freeEdges

/-- R105, main channel: an emitted step moves `MAIN_IDX` by ±1, clears `SUB_IDX` (as the sub stage then finds it), records
the emission and puts MainRotate in slot 0; a step the limiter refuses is dropped with the decoder's acceptance standing;
otherwise the levels are stored and nothing else. -/
def Obligations.MainChannelStage : Prop :=
  ∀ sample now s, ¬ s.block.warm < s.cfg.warm → ∃ t, exec (.tick sample now) s = .next t ∧
    (Emits s.cfg .main sample now s.block →
      t.block.mainIdx = s.block.mainIdx + stepByte .main sample ∧
      t.block.rl.main = { ts := now, vld := true } ∧
      t.block.valid .s0 = true ∧ t.block.evSlot.s0 = packRecord 0 (s.block.mainIdx + stepByte .main sample) 0 now ∧
      (¬ Emits s.cfg .sub sample now s.block → t.block.subIdx = 0)) ∧
    (¬ Emits s.cfg .main sample now s.block →
      t.block.mainIdx = s.block.mainIdx ∧ t.block.rl.main = s.block.rl.main ∧
      t.block.valid .s0 = false ∧ t.block.evSlot.s0 = 0 ∧
      (¬ Emits s.cfg .sub sample now s.block → t.block.subIdx = s.block.subIdx)) ∧
    t.block.qdec.main =
      if Accepts s.cfg .main sample now s.block then
        { clk := false, dt := dtLevel .main sample, accTs := now, accVld := true }
      else { s.block.qdec.main with clk := clkLevel .main sample, dt := dtLevel .main sample }

/-- R107, sub channel: an emitted step moves `SUB_IDX` from what stage 1 left and puts SubRotate, with the counters after
both stages, in slot 1; otherwise nothing of the channel but the decoder's registers changes. It never writes `MAIN_IDX`. -/
def Obligations.SubChannelStage : Prop :=
  ∀ sample now s, ¬ s.block.warm < s.cfg.warm → ∃ t, exec (.tick sample now) s = .next t ∧
    (Emits s.cfg .sub sample now s.block →
      t.block.subIdx =
        (if Emits s.cfg .main sample now s.block then 0 else s.block.subIdx) + stepByte .sub sample ∧
      t.block.rl.sub = { ts := now, vld := true } ∧
      t.block.valid .s1 = true ∧ t.block.evSlot.s1 = packRecord 1 t.block.mainIdx t.block.subIdx now) ∧
    (¬ Emits s.cfg .sub sample now s.block →
      t.block.subIdx = (if Emits s.cfg .main sample now s.block then 0 else s.block.subIdx) ∧
      t.block.rl.sub = s.block.rl.sub ∧ t.block.valid .s1 = false ∧ t.block.evSlot.s1 = 0) ∧
    t.block.mainIdx =
      (if Emits s.cfg .main sample now s.block then s.block.mainIdx + stepByte .main sample else s.block.mainIdx) ∧
    t.block.qdec.sub =
      if Accepts s.cfg .sub sample now s.block then
        { clk := false, dt := dtLevel .sub sample, accTs := now, accVld := true }
      else { s.block.qdec.sub with clk := clkLevel .sub sample, dt := dtLevel .sub sample }

/-- R106: an emitted main step clears `SUB_IDX` before the records are built, so MainRotate has `sub_index` 0 and a
SubRotate of the same tick has 1 or 255; a dropped main step does not reset `SUB_IDX`. -/
def Obligations.MainStepResetsTheSubIndex : Prop :=
  ∀ sample now s, ¬ s.block.warm < s.cfg.warm → ∃ t, exec (.tick sample now) s = .next t ∧
    (Emits s.cfg .main sample now s.block →
      recordMain t.block.evSlot.s0 = s.block.mainIdx + stepByte .main sample ∧ recordSub t.block.evSlot.s0 = 0 ∧
      (Emits s.cfg .sub sample now s.block →
        recordSub t.block.evSlot.s1 = (if dtLevel .sub sample then 1 else 255) ∧
        t.block.subIdx = recordSub t.block.evSlot.s1) ∧
      (¬ Emits s.cfg .sub sample now s.block → t.block.subIdx = 0)) ∧
    (¬ Emits s.cfg .main sample now s.block →
      t.block.subIdx =
        if Emits s.cfg .sub sample now s.block then s.block.subIdx + stepByte .sub sample else s.block.subIdx)

/-- R108: each button's stage: a press or release changes the button and puts its routed kind, with the counters after both
rotation stages, in slot 2 + b; an edge routed to `NONE` emits nothing; no edge stores the level only. -/
def Obligations.ButtonStages : Prop :=
  ∀ sample now s (i : Btn), ¬ s.block.warm < s.cfg.warm → ∃ t, exec (.tick sample now) s = .next t ∧
    (Presses s.cfg i sample now s.block →
      t.block.bt.get i = { s.block.bt.get i with line := true, pressed := true } ∧
      t.block.valid i.slot = (s.cfg.route.get i).onPress.isSome ∧
      ∀ kind, (s.cfg.route.get i).onPress = some kind →
        t.block.evSlot.get i.slot = packRecord (Kind.button kind).ordinal t.block.mainIdx t.block.subIdx now) ∧
    (Releases i sample s.block →
      t.block.bt.get i = { line := false, pressed := false, relTs := now, relVld := true } ∧
      t.block.valid i.slot = (s.cfg.route.get i).onRelease.isSome ∧
      ∀ kind, (s.cfg.route.get i).onRelease = some kind →
        t.block.evSlot.get i.slot = packRecord (Kind.button kind).ordinal t.block.mainIdx t.block.subIdx now) ∧
    (¬ Presses s.cfg i sample now s.block → ¬ Releases i sample s.block →
      t.block.bt.get i = { s.block.bt.get i with line := btnLevel i sample } ∧ t.block.valid i.slot = false) ∧
    (t.block.valid i.slot = false → t.block.evSlot.get i.slot = 0)

/-- R53: the lifecycle strobe of a tick is asserted in the cycle of that tick's slots and comes after every event of it; the
events come in ascending slot order (R52), and each holds the tick's time and the main counter. -/
def Obligations.DeliveriesAreOrdered : Prop :=
  ∀ sample now s, ¬ s.block.warm < s.cfg.warm → ∃ t, exec (.tick sample now) s = .next t ∧
    t.block.deliveries =
      (if t.block.valid .s0 then [.deliver t.block.evSlot.s0] else []) ++
      (if t.block.valid .s1 then [.deliver t.block.evSlot.s1] else []) ++
      (if t.block.valid .s2 then [.deliver t.block.evSlot.s2] else []) ++
      (if t.block.valid .s3 then [.deliver t.block.evSlot.s3] else []) ++ [.tickLifecycle now] ∧
    ∀ k, t.block.valid k = true →
      recordTime (t.block.evSlot.get k) = now ∧ recordMain (t.block.evSlot.get k) = t.block.mainIdx

/-- The counters move only with an event of this tick in their slot, over every instruction but `RESET` (R23, R24). -/
def Obligations.CountersMoveOnlyWithAnEvent : Prop :=
  ∀ i s t, exec i s = .next t → (∀ x, i ≠ .reset x) →
    (t.block.mainIdx ≠ s.block.mainIdx → t.block.valid .s0 = true ∧ recordMain t.block.evSlot.s0 = t.block.mainIdx) ∧
    (t.block.subIdx ≠ s.block.subIdx → t.block.valid .s0 = true ∨ t.block.valid .s1 = true)

/-- A tick on which no CLK line falls and no button level changes stores the levels and strobes, and nothing else: the frame
of the run tick. -/
def Obligations.QuietRunTickFrame : Prop :=
  ∀ sample now s, ¬ s.block.warm < s.cfg.warm →
    (∀ e, (s.block.qdec.get e).clk = true → clkLevel e sample = true) →
    (∀ i, (s.block.bt.get i).line = btnLevel i sample) →
    exec (.tick sample now) s = .next { s with block := { s.block with
      qdec := ⟨{ s.block.qdec.main with clk := clkLevel .main sample, dt := dtLevel .main sample },
        { s.block.qdec.sub with clk := clkLevel .sub sample, dt := dtLevel .sub sample }⟩,
      evValid := 0, evSlot := ⟨0, 0, 0, 0⟩, lcTick := true, lcNow := now } }

/-- With the default routes no tick produces Cancel (90_conflicts.md C3). -/
def Obligations.CancelNeedsARoute : Prop :=
  ∀ sample now s t k, s.cfg.route = Config.default.route → exec (.tick sample now) s = .next t →
    t.block.valid k = true → recordType (t.block.evSlot.get k) ≠ 3

/-! ### The event rows (30_encoding.md R63; the model's choice of their meaning, log 4) -/

/-- `EV.MainRotate` and `EV.SubRotate` place their record in slots 0 and 1 and change nothing else. -/
def Obligations.RotationRowsPlaceTheirRecord : Prop :=
  ∀ (m u : Byte) (n : Word) (s : State),
    exec (.evMainRotate m u n) s = .next { s with block := { s.block with
      evValid := s.block.evValid ||| 0b0001, evSlot := { s.block.evSlot with s0 := packRecord 0 m u n } } } ∧
    exec (.evSubRotate m u n) s = .next { s with block := { s.block with
      evValid := s.block.evValid ||| 0b0010, evSlot := { s.block.evSlot with s1 := packRecord 1 m u n } } }

/-- The four button rows place their record in the slot of their button and change nothing else. -/
def Obligations.ButtonRowsPlaceTheirRecord : Prop :=
  ∀ (kind : ButtonKind) (m u : Byte) (n : Word) (s : State),
    exec (buttonEvent kind .b0 m u n) s = .next { s with block := { s.block with
      evValid := s.block.evValid ||| 0b0100,
      evSlot := { s.block.evSlot with s2 := packRecord (Kind.button kind).ordinal m u n } } } ∧
    exec (buttonEvent kind .b1 m u n) s = .next { s with block := { s.block with
      evValid := s.block.evValid ||| 0b1000,
      evSlot := { s.block.evSlot with s3 := packRecord (Kind.button kind).ordinal m u n } } }

/-- Each of the six event rows, by name, completes from every state: its record can be read back from its slot by the
decoder. -/
def Obligations.EventRowsAreReadBackFromTheirSlot : Prop :=
  ∀ (b : Btn) (m u : Byte) (n : Word) (s : State),
    (∃ t, exec (.evMainRotate m u n) s = .next t ∧ t.block.valid .s0 = true ∧
      decode (.record .s0 (t.block.evSlot.get .s0)) = .ok (.evMainRotate m u n)) ∧
    (∃ t, exec (.evSubRotate m u n) s = .next t ∧ t.block.valid .s1 = true ∧
      decode (.record .s1 (t.block.evSlot.get .s1)) = .ok (.evSubRotate m u n)) ∧
    (∃ t, exec (.evConfirm b m u n) s = .next t ∧ t.block.valid b.slot = true ∧
      decode (.record b.slot (t.block.evSlot.get b.slot)) = .ok (.evConfirm b m u n)) ∧
    (∃ t, exec (.evCancel b m u n) s = .next t ∧ t.block.valid b.slot = true ∧
      decode (.record b.slot (t.block.evSlot.get b.slot)) = .ok (.evCancel b m u n)) ∧
    (∃ t, exec (.evAiPress b m u n) s = .next t ∧ t.block.valid b.slot = true ∧
      decode (.record b.slot (t.block.evSlot.get b.slot)) = .ok (.evAiPress b m u n)) ∧
    (∃ t, exec (.evAiRelease b m u n) s = .next t ∧ t.block.valid b.slot = true ∧
      decode (.record b.slot (t.block.evSlot.get b.slot)) = .ok (.evAiRelease b m u n))

/-! ### Time and counters (00_scope.md R15, R16, 43_event_router.md R112) -/

/-- R16: `elapsed` is subtraction modulo 2^32, and every window and interval test compares it with a parameter. -/
def Obligations.ElapsedIsModular : Prop :=
  (∀ now ts : Word, (elapsed now ts).toNat = (now.toNat + 2 ^ 32 - ts.toNat) % 2 ^ 32) ∧
  (∀ debMs q now, windowOpen debMs q now = true ↔
    q.accVld = true ∧ (now.toNat + 2 ^ 32 - q.accTs.toNat) % 2 ^ 32 < debMs.toNat) ∧
  (∀ coolMs r now, cooldownPasses coolMs r now = true ↔
    r.relVld = false ∨ (now.toNat + 2 ^ 32 - r.relTs.toNat) % 2 ^ 32 ≥ coolMs.toNat) ∧
  (∀ rateMs r now, rlAllow rateMs r now = true ↔
    r.vld = false ∨ (now.toNat + 2 ^ 32 - r.ts.toNat) % 2 ^ 32 ≥ rateMs.toNat)

/-- R112: `+₈` wraps modulo 256: 255 +₈ 1 = 0, 0 +₈ (-1) = 255, every other value v goes to v + d. -/
def Obligations.CounterArithmeticWraps : Prop :=
  (∀ (a : Byte) (d : QStep), ((addStep a (stepValue d)).toNat : Int) = (a.toNat + stepValue d) % 256) ∧
  addStep 255 1 = 0 ∧ addStep 0 (-1) = 255 ∧
  (∀ a : Byte, a ≠ 255 → (addStep a 1).toNat = a.toNat + 1) ∧
  (∀ a : Byte, a ≠ 0 → (addStep a (-1)).toNat + 1 = a.toNat) ∧
  (∀ a : Byte, addStep a (stepValue (stepOfBits true true)) = a + 0x01 ∧
    addStep a (stepValue (stepOfBits true false)) = a + 0xFF ∧ ∀ up, addStep a (stepValue (stepOfBits false up)) = a)

/-- With a `now` that went back by `delta` from a stored timestamp, every window that is not longer than 2^32 - `delta`
looks expired (R133). -/
def Obligations.BackwardsClockExpiresTheWindows : Prop :=
  ∀ (ts delta w : Word), delta ≠ 0 → w.toNat + delta.toNat ≤ 2 ^ 32 →
    (∀ q : QdecRegs, q.accTs = ts → windowOpen w q (ts - delta) = false) ∧
    (∀ r : ButtonRegs, r.relTs = ts → cooldownPasses w r (ts - delta) = true) ∧
    (∀ r : RateRegs, r.ts = ts → rlAllow w r (ts - delta) = true)

/-! ### The decoder (40_quadrature_decoder.md) -/

/-- R77, R78: over two polls, a step needs a high-to-low CLK change between them, and its direction is the DT level of the
second; outside the window every such change is a step. -/
def Obligations.StepOnlyOnClkFallWithDirectionByDt : Prop :=
  ∀ (debMs : Word) (q : QdecRegs) (c1 d1 c2 d2 : Bool) (n1 n2 : Word),
    ((qdecStep debMs c2 d2 n2 (qdecStep debMs c1 d1 n1 q).2).1 ≠ .zero → c1 = true ∧ c2 = false) ∧
    (windowOpen debMs (qdecStep debMs c1 d1 n1 q).2 n2 = false → c1 = true → c2 = false →
      stepValue (qdecStep debMs c2 d2 n2 (qdecStep debMs c1 d1 n1 q).2).1 = if d2 then 1 else -1)

/-- R76, R79: the window is open exactly under its two conditions; inside it a poll returns 0, evaluates nothing and
extends nothing, but stores the levels; outside it a transition is accepted, with its direction, and opens a new window; a
poll that returns 0 opens none. -/
def Obligations.WindowOpensAtAnAcceptedTransition : Prop :=
  ∀ (debMs : Word) (q : QdecRegs) (c d : Bool) (now : Word),
    (windowOpen debMs q now = true ↔ q.accVld = true ∧ elapsed now q.accTs < debMs) ∧
    (windowOpen debMs q now = true →
      stepValue (qdecStep debMs c d now q).1 = 0 ∧
      (qdecStep debMs c d now q).2 = { clk := c, dt := d, accTs := q.accTs, accVld := true }) ∧
    (windowOpen debMs q now = false → q.clk = true → c = false →
      stepValue (qdecStep debMs c d now q).1 = (if d then 1 else -1) ∧
      (qdecStep debMs c d now q).2 = { clk := c, dt := d, accTs := now, accVld := true } ∧
      ∀ now', windowOpen debMs (qdecStep debMs c d now q).2 now' = true ↔ elapsed now' now < debMs) ∧
    (stepValue (qdecStep debMs c d now q).1 = 0 →
      (qdecStep debMs c d now q).2.accTs = q.accTs ∧ (qdecStep debMs c d now q).2.accVld = q.accVld)

/-- A CLK fall inside the window is not reported later while CLK stays low (R80). -/
def Obligations.ConsumedFallIsNeverReported : Prop :=
  ∀ (debMs : Word) (q : QdecRegs) (p : DecoderPoll) (lows : List DecoderPoll),
    windowOpen debMs q p.now = true → p.clk = false → (∀ x ∈ lows, x.clk = false) →
    acceptedTimes debMs q (p :: lows) = [] ∧
    (decoderAfter debMs q (p :: lows)).accTs = q.accTs

/-- At most one accepted transition per debounce window: over every list of polls, each accepted time is at least `P_DEB_MS`
after the accepted time before it, the stored one included (R76, R79). -/
def Obligations.AcceptedTransitionsAreSpaced : Prop :=
  ∀ (debMs : Word) (q : QdecRegs) (polls : List DecoderPoll),
    Spaced debMs ((if q.accVld then [q.accTs] else []) ++ acceptedTimes debMs q polls)

/-! ### The rate limiter (42_rate_limiter.md) -/

/-- Two emitted events of one channel are at least `P_RATE_MS` apart: after a state in which channel c has just emitted, any
run of edges without `RESET` along which it does not emit, then a tick at which it does, has `elapsed` ≥ `P_RATE_MS`
between the two (R96, R97). -/
def Obligations.EmissionsOfAChannelAreSpaced : Prop :=
  ∀ (c : Chan) (s t u : State) (es : List Edge) (e : Edge), s.Inv → s.block.valid (chanSlot c) = true →
    (∀ x ∈ es, x.noReset = true) → e.noReset = true →
    (∀ pre suf, es = pre ++ suf → pre ≠ [] → ∀ v, RunsTo s pre v → v.block.valid (chanSlot c) = false) →
    RunsTo s es t → RunsTo t [e] u → u.block.valid (chanSlot c) = true →
    s.cfg.rateMs ≤ elapsed u.block.lcNow s.block.lcNow

/-! ### The button (41_edge_button.md) -/

/-- R87 to R90: a poll reports a press exactly at a rise of the line of a button not pressed whose cooldown test passes, and
a release exactly at a fall of a pressed button, which it records; every poll stores the level, and one that reports nothing
changes nothing else. -/
def Obligations.ButtonPollReportsEdges : Prop :=
  ∀ (coolMs : Word) (r : ButtonRegs) (a : Bool) (now : Word),
    ((btnPoll coolMs a now r).1 = .pressed ↔
      r.line = false ∧ a = true ∧ r.pressed = false ∧ (r.relVld = false ∨ coolMs ≤ elapsed now r.relTs)) ∧
    ((btnPoll coolMs a now r).1 = .released ↔ r.line = true ∧ a = false ∧ r.pressed = true) ∧
    ((btnPoll coolMs a now r).1 = .pressed → (btnPoll coolMs a now r).2 = { r with line := true, pressed := true }) ∧
    ((btnPoll coolMs a now r).1 = .released →
      (btnPoll coolMs a now r).2 = { line := false, pressed := false, relTs := now, relVld := true }) ∧
    ((btnPoll coolMs a now r).1 = .noEdge → (btnPoll coolMs a now r).2 = { r with line := a }) ∧
    (btnPoll coolMs a now r).2.line = a

/-- Over every list of polls presses and releases alternate, and a press is at least `P_COOL_MS` after the release before it
(R87 to R89). -/
def Obligations.ButtonEdgesAlternate : Prop :=
  ∀ (coolMs : Word) (r : ButtonRegs) (polls : List ButtonPoll),
    Alternates coolMs r.pressed r.lastRelease (buttonEdges coolMs r polls)

/-- A press that the cooldown suppresses is lost: while the line stays active, and when it falls, no edge is reported, and
the recorded release stands (R91). -/
def Obligations.SuppressedPressIsLost : Prop :=
  ∀ (coolMs : Word) (r : ButtonRegs) (now fall : Word) (held : List ButtonPoll),
    r.line = false → r.pressed = false → r.relVld = true → elapsed now r.relTs < coolMs →
    (∀ x ∈ held, x.level = true) →
    buttonEdges coolMs r (⟨true, now⟩ :: held ++ [⟨false, fall⟩]) = [] ∧
    buttonAfter coolMs r (⟨true, now⟩ :: held ++ [⟨false, fall⟩]) = r

/-- A button held on the last warm-up tick reports nothing until it is released and pressed again, and that press needs no
cooldown (R93). -/
def Obligations.ButtonHeldThroughWarmUpIsSilent : Prop :=
  ∀ (coolMs : Word) (held : List ButtonPoll) (fall rise : Word), (∀ x ∈ held, x.level = true) →
    buttonEdges coolMs (btnSettle true) (held ++ [⟨false, fall⟩, ⟨true, rise⟩]) = [(.pressed, rise)]

/-! ### Independence (10_state.md R26, 40_quadrature_decoder.md R83, 42_rate_limiter.md R98) -/

/-- The stored DT bits are unobservable: two blocks that differ in them only agree on everything else, the outputs among it,
after every run of the same edges (R26, R81). -/
def Obligations.StoredDtIsUnobservable : Prop :=
  ∀ (s s' t t' : State) (es : List Edge), s.cfg.accepted = true → s'.cfg = s.cfg →
    s'.block.forgetDt = s.block.forgetDt → RunsTo s es t → RunsTo s' es t' →
    t'.block.forgetDt = t.block.forgetDt

/-- The main channel is driven by `CTL`, `now_ms` and its own two lines only: two runs that agree on these agree on
`MAIN_IDX`, the main decoder, the main limiter and slot 0. -/
def Obligations.MainChannelIgnoresTheOtherLines : Prop :=
  ∀ (s s' t t' : State) (es es' : List Edge), s.cfg.accepted = true → s'.cfg = s.cfg →
    List.Forall₂ (fun x y => x.ctl = y.ctl ∧ x.nowMs = y.nowMs ∧ clkLevel .main x.sample = clkLevel .main y.sample ∧
      dtLevel .main x.sample = dtLevel .main y.sample) es es' →
    s'.block.warm = s.block.warm → s'.block.mainIdx = s.block.mainIdx → s'.block.qdec.main = s.block.qdec.main →
    s'.block.rl.main = s.block.rl.main → s'.block.valid .s0 = s.block.valid .s0 →
    s'.block.evSlot.s0 = s.block.evSlot.s0 → RunsTo s es t → RunsTo s' es' t' →
    t'.block.warm = t.block.warm ∧ t'.block.mainIdx = t.block.mainIdx ∧ t'.block.qdec.main = t.block.qdec.main ∧
      t'.block.rl.main = t.block.rl.main ∧ t'.block.valid .s0 = t.block.valid .s0 ∧
      t'.block.evSlot.s0 = t.block.evSlot.s0

/-- The sub decoder and limiter, and each button, follow their own lines only (R83, R85, R98). -/
def Obligations.UnitsFollowTheirOwnLines : Prop :=
  ∀ (s s' t t' : State) (es es' : List Edge), s.cfg.accepted = true → s'.cfg = s.cfg → s'.block.warm = s.block.warm →
    RunsTo s es t → RunsTo s' es' t' →
    (∀ c, List.Forall₂ (fun x y => x.ctl = y.ctl ∧ x.nowMs = y.nowMs ∧ clkLevel c x.sample = clkLevel c y.sample ∧
        dtLevel c x.sample = dtLevel c y.sample) es es' →
      s'.block.qdec.get c = s.block.qdec.get c → s'.block.rl.get c = s.block.rl.get c →
      t'.block.qdec.get c = t.block.qdec.get c ∧ t'.block.rl.get c = t.block.rl.get c) ∧
    (∀ i, List.Forall₂ (fun x y => x.ctl = y.ctl ∧ x.nowMs = y.nowMs ∧ btnLevel i x.sample = btnLevel i y.sample) es es' →
      s'.block.bt.get i = s.block.bt.get i → t'.block.bt.get i = t.block.bt.get i)

/-! ### The invariant (10_state.md R42, R43) -/

/-- Every step keeps the invariant of Safety.lean. -/
def Obligations.StepKeepsTheInvariant : Prop :=
  ∀ s t : State, s.Inv → step s = .next t → t.Inv

/-- The reset state meets it, and so does the block after `RESET` under every accepted configuration. -/
def Obligations.ResetMeetsTheInvariant : Prop :=
  State.reset.Inv ∧ ∀ cfg : Config, cfg.accepted = true → (State.fresh cfg).Inv
end

