-- ==== Sys2Proof/Laws/Decode.lean ====
section
/-! SUPPORT. The decoder's lemmas: the fields of a packed record, the kinds, the control word, the route codes. -/

namespace Sys2Proof

/-! ### Kinds (30_encoding.md R63, R64) -/

@[simp] theorem Kind.ofOrdinal_ordinal (k : Kind) : Kind.ofOrdinal k.ordinal = some k := by
  rcases k with _ | _ | ⟨_ | _ | _ | _⟩ <;> rfl

theorem Kind.ordinal_of_ofOrdinal {ty : Byte} {k : Kind} (h : Kind.ofOrdinal ty = some k) : k.ordinal = ty := by
  revert k; revert ty; unfold Kind.ofOrdinal
  intro ty k
  split_ifs <;> intro h <;> cases h <;> simp_all [Kind.ordinal]

theorem Kind.ofOrdinal_eq_none_iff (ty : Byte) : Kind.ofOrdinal ty = none ↔ 6 ≤ ty := by
  revert ty; decide

/-! ### Record fields (R62) -/

/-- Each bit of a packed record comes from one field. -/
theorem packRecord_bit (ty m s : Byte) (t : Word) (i : Nat) :
    (packRecord ty m s t).getLsbD i =
      if i < 8 then ty.getLsbD i else if i < 16 then m.getLsbD (i - 8) else if i < 24 then s.getLsbD (i - 16)
      else t.getLsbD (i - 24) := by
  have h : (packRecord ty m s t).getLsbD i = (((t ++ s) ++ m) ++ ty).getLsbD i := rfl
  rw [h, BitVec.getLsbD_append, BitVec.getLsbD_append, BitVec.getLsbD_append]
  have e1 : i - 8 - 8 = i - 16 := by omega
  have e2 : i - 16 - 8 = i - 24 := by omega
  rw [e1, e2]
  split_ifs <;> first | rfl | omega

@[simp] theorem recordType_pack (ty m s : Byte) (t : Word) : recordType (packRecord ty m s t) = ty := by
  apply BitVec.eq_of_getLsbD_eq; intro i hi
  simp [recordType, packRecord_bit, hi]

@[simp] theorem recordMain_pack (ty m s : Byte) (t : Word) : recordMain (packRecord ty m s t) = m := by
  apply BitVec.eq_of_getLsbD_eq; intro i hi
  have h : 8 + i < 16 := by omega
  simp [recordMain, packRecord_bit, hi, h]

@[simp] theorem recordSub_pack (ty m s : Byte) (t : Word) : recordSub (packRecord ty m s t) = s := by
  apply BitVec.eq_of_getLsbD_eq; intro i hi
  have h : 16 + i < 24 := by omega
  have h1 : ¬ (16 + i < 8) := by omega
  simp [recordSub, packRecord_bit, hi, h, h1]

@[simp] theorem recordTime_pack (ty m s : Byte) (t : Word) : recordTime (packRecord ty m s t) = t := by
  apply BitVec.eq_of_getLsbD_eq; intro i hi
  have h1 : ¬ (24 + i < 8) := by omega
  have h2 : ¬ (24 + i < 16) := by omega
  simp [recordTime, packRecord_bit, hi, h1, h2]

/-- A record is the packing of its fields: no bit is left out. -/
theorem packRecord_fields (r : Record) : packRecord (recordType r) (recordMain r) (recordSub r) (recordTime r) = r := by
  apply BitVec.eq_of_getLsbD_eq; intro i hi
  simp only [packRecord_bit, recordType, recordMain, recordSub, recordTime, BitVec.getLsbD_extractLsb']
  split_ifs with h1 h2 h3
  · simp [h1]
  · rw [show 8 + (i - 8) = i by omega]; simp; omega
  · rw [show 16 + (i - 16) = i by omega]; simp; omega
  · rw [show 24 + (i - 24) = i by omega]; simp; omega

/-! ### Decoding -/

@[simp] theorem Btn.btn?_slot (b : Btn) : b.slot.btn? = some b := by cases b <;> rfl

theorem Slot.slot_of_btn? {k : Slot} {b : Btn} (h : k.btn? = some b) : b.slot = k := by
  cases k <;> cases b <;> simp_all [Slot.btn?, Btn.slot]

@[simp] theorem ctl_rst (rst tick : Bool) : (BitVec.ofBool rst ++ BitVec.ofBool tick).getLsbD 1 = rst := by
  cases rst <;> cases tick <;> rfl

@[simp] theorem ctl_tick (rst tick : Bool) : (BitVec.ofBool rst ++ BitVec.ofBool tick).getLsbD 0 = tick := by
  cases rst <;> cases tick <;> rfl

/-- A control word that the encoder writes decodes to its operation (R59). -/
theorem decode_encodeEdge (rst tick : Bool) (sample : Sample) (nowMs : Word) :
    decode (encodeEdge rst tick sample nowMs) =
      .ok (if rst then .reset tick else if tick then .tick sample nowMs else .idle) := by
  cases rst <;> cases tick <;> simp [decode, decodeEdge, encodeEdge]

/-- A record that the encoder writes for a button kind decodes to that kind's row (R62, R63, R69). -/
theorem decode_encodeEvent_button (kind : ButtonKind) (b : Btn) (m s : Byte) (t : Word) :
    decode (encodeEvent (.button kind) b.slot m s t) = .ok (buttonEvent kind b m s t) := by
  simp [decode, encodeEvent, decodeRecord]

/-! ### Route codes (R66) -/

@[simp] theorem routeOfCode_routeCode (k : Option ButtonKind) : routeOfCode (routeCode k) = .ok k := by
  rcases k with _ | ⟨_ | _ | _ | _⟩ <;> rfl

end Sys2Proof
end

