-- ==== Sys2Proof/Laws/PerInstr.lean ====
section
/-! SUPPORT. One lemma per constructor of Instr: decoding what the encoder writes gives the instruction back. -/

namespace Sys2Proof.Laws.RoundTrip

def Statement (i : Instr) : Prop := decode (encode i) = .ok i

theorem reset (lostTick : Bool) : Statement (.reset lostTick) := decode_encodeEdge true lostTick 0 0

theorem tick (sample : Sample) (nowMs : Word) : Statement (.tick sample nowMs) :=
  decode_encodeEdge false true sample nowMs

theorem idle : Statement .idle := decode_encodeEdge false false 0 0

theorem evMainRotate (m s : Byte) (t : Word) : Statement (.evMainRotate m s t) := by
  simp [Statement, decode, encode, encodeEvent, decodeRecord]

theorem evSubRotate (m s : Byte) (t : Word) : Statement (.evSubRotate m s t) := by
  simp [Statement, decode, encode, encodeEvent, decodeRecord]

theorem evConfirm (b : Btn) (m s : Byte) (t : Word) : Statement (.evConfirm b m s t) :=
  decode_encodeEvent_button .confirm b m s t

theorem evCancel (b : Btn) (m s : Byte) (t : Word) : Statement (.evCancel b m s t) :=
  decode_encodeEvent_button .cancel b m s t

theorem evAiPress (b : Btn) (m s : Byte) (t : Word) : Statement (.evAiPress b m s t) :=
  decode_encodeEvent_button .aiPress b m s t

theorem evAiRelease (b : Btn) (m s : Byte) (t : Word) : Statement (.evAiRelease b m s t) :=
  decode_encodeEvent_button .aiRelease b m s t

end Sys2Proof.Laws.RoundTrip
end

