-- ==== Sys2Proof/Laws/State.lean ====
section
/-! SUPPORT. The small lemmas of the state: per-instance registers, and one lemma per field per register write. -/

namespace Sys2Proof

/-! ### Per-instance registers -/

@[simp] theorem PerChan.get_main {α : Type} (r : PerChan α) : r.get .main = r.main := rfl
@[simp] theorem PerChan.get_sub {α : Type} (r : PerChan α) : r.get .sub = r.sub := rfl
@[simp] theorem PerChan.set_main_main {α : Type} (r : PerChan α) (v : α) : (r.set .main v).main = v := rfl
@[simp] theorem PerChan.set_main_sub {α : Type} (r : PerChan α) (v : α) : (r.set .main v).sub = r.sub := rfl
@[simp] theorem PerChan.set_sub_main {α : Type} (r : PerChan α) (v : α) : (r.set .sub v).main = r.main := rfl
@[simp] theorem PerChan.set_sub_sub {α : Type} (r : PerChan α) (v : α) : (r.set .sub v).sub = v := rfl

@[simp] theorem PerChan.get_set {α : Type} (r : PerChan α) (i j : Chan) (v : α) :
    (r.set i v).get j = if j = i then v else r.get j := by
  cases i <;> cases j <;> rfl

@[simp] theorem PerBtn.get_b0 {α : Type} (r : PerBtn α) : r.get .b0 = r.b0 := rfl
@[simp] theorem PerBtn.get_b1 {α : Type} (r : PerBtn α) : r.get .b1 = r.b1 := rfl
@[simp] theorem PerBtn.set_b0_b0 {α : Type} (r : PerBtn α) (v : α) : (r.set .b0 v).b0 = v := rfl
@[simp] theorem PerBtn.set_b0_b1 {α : Type} (r : PerBtn α) (v : α) : (r.set .b0 v).b1 = r.b1 := rfl
@[simp] theorem PerBtn.set_b1_b0 {α : Type} (r : PerBtn α) (v : α) : (r.set .b1 v).b0 = r.b0 := rfl
@[simp] theorem PerBtn.set_b1_b1 {α : Type} (r : PerBtn α) (v : α) : (r.set .b1 v).b1 = v := rfl

@[simp] theorem PerBtn.get_set {α : Type} (r : PerBtn α) (i j : Btn) (v : α) :
    (r.set i v).get j = if j = i then v else r.get j := by
  cases i <;> cases j <;> rfl

@[simp] theorem PerSlot.get_s0 {α : Type} (r : PerSlot α) : r.get .s0 = r.s0 := rfl
@[simp] theorem PerSlot.get_s1 {α : Type} (r : PerSlot α) : r.get .s1 = r.s1 := rfl
@[simp] theorem PerSlot.get_s2 {α : Type} (r : PerSlot α) : r.get .s2 = r.s2 := rfl
@[simp] theorem PerSlot.get_s3 {α : Type} (r : PerSlot α) : r.get .s3 = r.s3 := rfl
@[simp] theorem PerSlot.set_s0_s0 {α : Type} (r : PerSlot α) (v : α) : (r.set .s0 v).s0 = v := rfl
@[simp] theorem PerSlot.set_s0_s1 {α : Type} (r : PerSlot α) (v : α) : (r.set .s0 v).s1 = r.s1 := rfl
@[simp] theorem PerSlot.set_s0_s2 {α : Type} (r : PerSlot α) (v : α) : (r.set .s0 v).s2 = r.s2 := rfl
@[simp] theorem PerSlot.set_s0_s3 {α : Type} (r : PerSlot α) (v : α) : (r.set .s0 v).s3 = r.s3 := rfl
@[simp] theorem PerSlot.set_s1_s0 {α : Type} (r : PerSlot α) (v : α) : (r.set .s1 v).s0 = r.s0 := rfl
@[simp] theorem PerSlot.set_s1_s1 {α : Type} (r : PerSlot α) (v : α) : (r.set .s1 v).s1 = v := rfl
@[simp] theorem PerSlot.set_s1_s2 {α : Type} (r : PerSlot α) (v : α) : (r.set .s1 v).s2 = r.s2 := rfl
@[simp] theorem PerSlot.set_s1_s3 {α : Type} (r : PerSlot α) (v : α) : (r.set .s1 v).s3 = r.s3 := rfl
@[simp] theorem PerSlot.set_s2_s0 {α : Type} (r : PerSlot α) (v : α) : (r.set .s2 v).s0 = r.s0 := rfl
@[simp] theorem PerSlot.set_s2_s1 {α : Type} (r : PerSlot α) (v : α) : (r.set .s2 v).s1 = r.s1 := rfl
@[simp] theorem PerSlot.set_s2_s2 {α : Type} (r : PerSlot α) (v : α) : (r.set .s2 v).s2 = v := rfl
@[simp] theorem PerSlot.set_s2_s3 {α : Type} (r : PerSlot α) (v : α) : (r.set .s2 v).s3 = r.s3 := rfl
@[simp] theorem PerSlot.set_s3_s0 {α : Type} (r : PerSlot α) (v : α) : (r.set .s3 v).s0 = r.s0 := rfl
@[simp] theorem PerSlot.set_s3_s1 {α : Type} (r : PerSlot α) (v : α) : (r.set .s3 v).s1 = r.s1 := rfl
@[simp] theorem PerSlot.set_s3_s2 {α : Type} (r : PerSlot α) (v : α) : (r.set .s3 v).s2 = r.s2 := rfl
@[simp] theorem PerSlot.set_s3_s3 {α : Type} (r : PerSlot α) (v : α) : (r.set .s3 v).s3 = v := rfl

@[simp] theorem PerSlot.get_set {α : Type} (r : PerSlot α) (i j : Slot) (v : α) :
    (r.set i v).get j = if j = i then v else r.get j := by
  cases i <;> cases j <;> rfl

namespace Machine

/-! ### Register writes -/

@[simp] theorem Block.setWarm_warm (b : Block) (v : BitVec 4) : (b.setWarm v).warm = v := rfl
@[simp] theorem Block.setWarm_mainIdx (b : Block) (v : BitVec 4) : (b.setWarm v).mainIdx = b.mainIdx := rfl
@[simp] theorem Block.setWarm_subIdx (b : Block) (v : BitVec 4) : (b.setWarm v).subIdx = b.subIdx := rfl
@[simp] theorem Block.setWarm_qdec (b : Block) (v : BitVec 4) : (b.setWarm v).qdec = b.qdec := rfl
@[simp] theorem Block.setWarm_rl (b : Block) (v : BitVec 4) : (b.setWarm v).rl = b.rl := rfl
@[simp] theorem Block.setWarm_bt (b : Block) (v : BitVec 4) : (b.setWarm v).bt = b.bt := rfl
@[simp] theorem Block.setWarm_evValid (b : Block) (v : BitVec 4) : (b.setWarm v).evValid = b.evValid := rfl
@[simp] theorem Block.setWarm_evSlot (b : Block) (v : BitVec 4) : (b.setWarm v).evSlot = b.evSlot := rfl
@[simp] theorem Block.setWarm_lcTick (b : Block) (v : BitVec 4) : (b.setWarm v).lcTick = b.lcTick := rfl
@[simp] theorem Block.setWarm_lcNow (b : Block) (v : BitVec 4) : (b.setWarm v).lcNow = b.lcNow := rfl

@[simp] theorem Block.setMainIdx_warm (b : Block) (v : Byte) : (b.setMainIdx v).warm = b.warm := rfl
@[simp] theorem Block.setMainIdx_mainIdx (b : Block) (v : Byte) : (b.setMainIdx v).mainIdx = v := rfl
@[simp] theorem Block.setMainIdx_subIdx (b : Block) (v : Byte) : (b.setMainIdx v).subIdx = b.subIdx := rfl
@[simp] theorem Block.setMainIdx_qdec (b : Block) (v : Byte) : (b.setMainIdx v).qdec = b.qdec := rfl
@[simp] theorem Block.setMainIdx_rl (b : Block) (v : Byte) : (b.setMainIdx v).rl = b.rl := rfl
@[simp] theorem Block.setMainIdx_bt (b : Block) (v : Byte) : (b.setMainIdx v).bt = b.bt := rfl
@[simp] theorem Block.setMainIdx_evValid (b : Block) (v : Byte) : (b.setMainIdx v).evValid = b.evValid := rfl
@[simp] theorem Block.setMainIdx_evSlot (b : Block) (v : Byte) : (b.setMainIdx v).evSlot = b.evSlot := rfl
@[simp] theorem Block.setMainIdx_lcTick (b : Block) (v : Byte) : (b.setMainIdx v).lcTick = b.lcTick := rfl
@[simp] theorem Block.setMainIdx_lcNow (b : Block) (v : Byte) : (b.setMainIdx v).lcNow = b.lcNow := rfl

@[simp] theorem Block.setSubIdx_warm (b : Block) (v : Byte) : (b.setSubIdx v).warm = b.warm := rfl
@[simp] theorem Block.setSubIdx_mainIdx (b : Block) (v : Byte) : (b.setSubIdx v).mainIdx = b.mainIdx := rfl
@[simp] theorem Block.setSubIdx_subIdx (b : Block) (v : Byte) : (b.setSubIdx v).subIdx = v := rfl
@[simp] theorem Block.setSubIdx_qdec (b : Block) (v : Byte) : (b.setSubIdx v).qdec = b.qdec := rfl
@[simp] theorem Block.setSubIdx_rl (b : Block) (v : Byte) : (b.setSubIdx v).rl = b.rl := rfl
@[simp] theorem Block.setSubIdx_bt (b : Block) (v : Byte) : (b.setSubIdx v).bt = b.bt := rfl
@[simp] theorem Block.setSubIdx_evValid (b : Block) (v : Byte) : (b.setSubIdx v).evValid = b.evValid := rfl
@[simp] theorem Block.setSubIdx_evSlot (b : Block) (v : Byte) : (b.setSubIdx v).evSlot = b.evSlot := rfl
@[simp] theorem Block.setSubIdx_lcTick (b : Block) (v : Byte) : (b.setSubIdx v).lcTick = b.lcTick := rfl
@[simp] theorem Block.setSubIdx_lcNow (b : Block) (v : Byte) : (b.setSubIdx v).lcNow = b.lcNow := rfl

@[simp] theorem Block.setQdec_warm (b : Block) (e : Chan) (r : QdecRegs) : (b.setQdec e r).warm = b.warm := rfl
@[simp] theorem Block.setQdec_mainIdx (b : Block) (e : Chan) (r : QdecRegs) : (b.setQdec e r).mainIdx = b.mainIdx := rfl
@[simp] theorem Block.setQdec_subIdx (b : Block) (e : Chan) (r : QdecRegs) : (b.setQdec e r).subIdx = b.subIdx := rfl
@[simp] theorem Block.setQdec_qdec (b : Block) (e : Chan) (r : QdecRegs) : (b.setQdec e r).qdec = b.qdec.set e r := rfl
@[simp] theorem Block.setQdec_rl (b : Block) (e : Chan) (r : QdecRegs) : (b.setQdec e r).rl = b.rl := rfl
@[simp] theorem Block.setQdec_bt (b : Block) (e : Chan) (r : QdecRegs) : (b.setQdec e r).bt = b.bt := rfl
@[simp] theorem Block.setQdec_evValid (b : Block) (e : Chan) (r : QdecRegs) : (b.setQdec e r).evValid = b.evValid := rfl
@[simp] theorem Block.setQdec_evSlot (b : Block) (e : Chan) (r : QdecRegs) : (b.setQdec e r).evSlot = b.evSlot := rfl
@[simp] theorem Block.setQdec_lcTick (b : Block) (e : Chan) (r : QdecRegs) : (b.setQdec e r).lcTick = b.lcTick := rfl
@[simp] theorem Block.setQdec_lcNow (b : Block) (e : Chan) (r : QdecRegs) : (b.setQdec e r).lcNow = b.lcNow := rfl

@[simp] theorem Block.setRl_warm (b : Block) (c : Chan) (r : RateRegs) : (b.setRl c r).warm = b.warm := rfl
@[simp] theorem Block.setRl_mainIdx (b : Block) (c : Chan) (r : RateRegs) : (b.setRl c r).mainIdx = b.mainIdx := rfl
@[simp] theorem Block.setRl_subIdx (b : Block) (c : Chan) (r : RateRegs) : (b.setRl c r).subIdx = b.subIdx := rfl
@[simp] theorem Block.setRl_qdec (b : Block) (c : Chan) (r : RateRegs) : (b.setRl c r).qdec = b.qdec := rfl
@[simp] theorem Block.setRl_rl (b : Block) (c : Chan) (r : RateRegs) : (b.setRl c r).rl = b.rl.set c r := rfl
@[simp] theorem Block.setRl_bt (b : Block) (c : Chan) (r : RateRegs) : (b.setRl c r).bt = b.bt := rfl
@[simp] theorem Block.setRl_evValid (b : Block) (c : Chan) (r : RateRegs) : (b.setRl c r).evValid = b.evValid := rfl
@[simp] theorem Block.setRl_evSlot (b : Block) (c : Chan) (r : RateRegs) : (b.setRl c r).evSlot = b.evSlot := rfl
@[simp] theorem Block.setRl_lcTick (b : Block) (c : Chan) (r : RateRegs) : (b.setRl c r).lcTick = b.lcTick := rfl
@[simp] theorem Block.setRl_lcNow (b : Block) (c : Chan) (r : RateRegs) : (b.setRl c r).lcNow = b.lcNow := rfl

@[simp] theorem Block.setBt_warm (b : Block) (i : Btn) (r : ButtonRegs) : (b.setBt i r).warm = b.warm := rfl
@[simp] theorem Block.setBt_mainIdx (b : Block) (i : Btn) (r : ButtonRegs) : (b.setBt i r).mainIdx = b.mainIdx := rfl
@[simp] theorem Block.setBt_subIdx (b : Block) (i : Btn) (r : ButtonRegs) : (b.setBt i r).subIdx = b.subIdx := rfl
@[simp] theorem Block.setBt_qdec (b : Block) (i : Btn) (r : ButtonRegs) : (b.setBt i r).qdec = b.qdec := rfl
@[simp] theorem Block.setBt_rl (b : Block) (i : Btn) (r : ButtonRegs) : (b.setBt i r).rl = b.rl := rfl
@[simp] theorem Block.setBt_bt (b : Block) (i : Btn) (r : ButtonRegs) : (b.setBt i r).bt = b.bt.set i r := rfl
@[simp] theorem Block.setBt_evValid (b : Block) (i : Btn) (r : ButtonRegs) : (b.setBt i r).evValid = b.evValid := rfl
@[simp] theorem Block.setBt_evSlot (b : Block) (i : Btn) (r : ButtonRegs) : (b.setBt i r).evSlot = b.evSlot := rfl
@[simp] theorem Block.setBt_lcTick (b : Block) (i : Btn) (r : ButtonRegs) : (b.setBt i r).lcTick = b.lcTick := rfl
@[simp] theorem Block.setBt_lcNow (b : Block) (i : Btn) (r : ButtonRegs) : (b.setBt i r).lcNow = b.lcNow := rfl

@[simp] theorem lcStrobe_warm (now : Word) (b : Block) : (lcStrobe now b).warm = b.warm := rfl
@[simp] theorem lcStrobe_mainIdx (now : Word) (b : Block) : (lcStrobe now b).mainIdx = b.mainIdx := rfl
@[simp] theorem lcStrobe_subIdx (now : Word) (b : Block) : (lcStrobe now b).subIdx = b.subIdx := rfl
@[simp] theorem lcStrobe_qdec (now : Word) (b : Block) : (lcStrobe now b).qdec = b.qdec := rfl
@[simp] theorem lcStrobe_rl (now : Word) (b : Block) : (lcStrobe now b).rl = b.rl := rfl
@[simp] theorem lcStrobe_bt (now : Word) (b : Block) : (lcStrobe now b).bt = b.bt := rfl
@[simp] theorem lcStrobe_evValid (now : Word) (b : Block) : (lcStrobe now b).evValid = b.evValid := rfl
@[simp] theorem lcStrobe_evSlot (now : Word) (b : Block) : (lcStrobe now b).evSlot = b.evSlot := rfl
@[simp] theorem lcStrobe_lcTick (now : Word) (b : Block) : (lcStrobe now b).lcTick = true := rfl
@[simp] theorem lcStrobe_lcNow (now : Word) (b : Block) : (lcStrobe now b).lcNow = now := rfl

@[simp] theorem clearOutputs_warm (b : Block) : (clearOutputs b).warm = b.warm := rfl
@[simp] theorem clearOutputs_mainIdx (b : Block) : (clearOutputs b).mainIdx = b.mainIdx := rfl
@[simp] theorem clearOutputs_subIdx (b : Block) : (clearOutputs b).subIdx = b.subIdx := rfl
@[simp] theorem clearOutputs_qdec (b : Block) : (clearOutputs b).qdec = b.qdec := rfl
@[simp] theorem clearOutputs_rl (b : Block) : (clearOutputs b).rl = b.rl := rfl
@[simp] theorem clearOutputs_bt (b : Block) : (clearOutputs b).bt = b.bt := rfl
@[simp] theorem clearOutputs_evValid (b : Block) : (clearOutputs b).evValid = 0 := rfl
@[simp] theorem clearOutputs_evSlot (b : Block) : (clearOutputs b).evSlot = ⟨0, 0, 0, 0⟩ := rfl
@[simp] theorem clearOutputs_lcTick (b : Block) : (clearOutputs b).lcTick = false := rfl
@[simp] theorem clearOutputs_lcNow (b : Block) : (clearOutputs b).lcNow = 0 := rfl

@[simp] theorem emit_warm (k : Slot) (r : Option Record) (b : Block) : (emit k r b).warm = b.warm := by cases r <;> rfl
@[simp] theorem emit_mainIdx (k : Slot) (r : Option Record) (b : Block) : (emit k r b).mainIdx = b.mainIdx := by cases r <;> rfl
@[simp] theorem emit_subIdx (k : Slot) (r : Option Record) (b : Block) : (emit k r b).subIdx = b.subIdx := by cases r <;> rfl
@[simp] theorem emit_qdec (k : Slot) (r : Option Record) (b : Block) : (emit k r b).qdec = b.qdec := by cases r <;> rfl
@[simp] theorem emit_rl (k : Slot) (r : Option Record) (b : Block) : (emit k r b).rl = b.rl := by cases r <;> rfl
@[simp] theorem emit_bt (k : Slot) (r : Option Record) (b : Block) : (emit k r b).bt = b.bt := by cases r <;> rfl
@[simp] theorem emit_lcTick (k : Slot) (r : Option Record) (b : Block) : (emit k r b).lcTick = b.lcTick := by cases r <;> rfl
@[simp] theorem emit_lcNow (k : Slot) (r : Option Record) (b : Block) : (emit k r b).lcNow = b.lcNow := by cases r <;> rfl

@[simp] theorem State.setBlock_block (s : State) (b : Block) : (s.setBlock b).block = b := rfl
@[simp] theorem State.setBlock_cfg (s : State) (b : Block) : (s.setBlock b).cfg = s.cfg := rfl
@[simp] theorem State.setBlock_stimulus (s : State) (b : Block) : (s.setBlock b).stimulus = s.stimulus := rfl
@[simp] theorem State.setBlock_freeEdges (s : State) (b : Block) : (s.setBlock b).freeEdges = s.freeEdges := rfl
@[simp] theorem State.setStimulus_block (s : State) (l : List Stimulus) : (s.setStimulus l).block = s.block := rfl
@[simp] theorem State.setStimulus_cfg (s : State) (l : List Stimulus) : (s.setStimulus l).cfg = s.cfg := rfl
@[simp] theorem State.setStimulus_stimulus (s : State) (l : List Stimulus) : (s.setStimulus l).stimulus = l := rfl
@[simp] theorem State.setStimulus_freeEdges (s : State) (l : List Stimulus) : (s.setStimulus l).freeEdges = s.freeEdges := rfl

/-! ### The valid bits and the slots -/

theorem putBit_bit (v : BitVec 4) (k j : Slot) (x : Bool) :
    (putBit v k x).getLsbD j.index = if j = k then x else v.getLsbD j.index := by
  revert v x; cases k <;> cases j <;> decide

/-- Bit k of `EV_VALID` after an emission (43_event_router.md R110). -/
@[simp] theorem emit_valid (k j : Slot) (r : Option Record) (b : Block) :
    (emit k r b).valid j = if j = k then r.isSome else b.valid j := by
  cases r <;> simp [emit, Block.valid, putBit_bit]

/-- Slot k after an emission (R110, 10_state.md R36). -/
@[simp] theorem emit_slot (k : Slot) (r : Option Record) (b : Block) :
    (emit k r b).evSlot = b.evSlot.set k (r.getD 0) := by
  cases r <;> rfl

@[simp] theorem lcStrobe_valid (now : Word) (b : Block) (k : Slot) : (lcStrobe now b).valid k = b.valid k := rfl

@[simp] theorem clearOutputs_valid (b : Block) (k : Slot) : (clearOutputs b).valid k = false := by
  simp [Block.valid]

/-- `EV_VALID` is 0 exactly when no slot is valid. -/
theorem evValid_eq_zero_iff (b : Block) : b.evValid = 0 ↔ ∀ k, b.valid k = false := by
  constructor
  · intro h k; unfold Block.valid; rw [h]; cases k <;> rfl
  · intro h
    have h0 := h .s0; have h1 := h .s1; have h2 := h .s2; have h3 := h .s3
    unfold Block.valid at h0 h1 h2 h3
    revert h0 h1 h2 h3; generalize b.evValid = v; revert v; decide

/-- Two blocks that agree register by register are equal. -/
theorem Block.eq_of_fields {a b : Block} (hw : a.warm = b.warm) (hm : a.mainIdx = b.mainIdx) (hs : a.subIdx = b.subIdx)
    (hq : ∀ e, a.qdec.get e = b.qdec.get e) (hr : ∀ c, a.rl.get c = b.rl.get c) (hb : ∀ i, a.bt.get i = b.bt.get i)
    (hv : ∀ k, a.valid k = b.valid k) (he : ∀ k, a.evSlot.get k = b.evSlot.get k) (ht : a.lcTick = b.lcTick)
    (hn : a.lcNow = b.lcNow) : a = b := by
  have hev : a.evValid = b.evValid := by
    have h0 := hv .s0; have h1 := hv .s1; have h2 := hv .s2; have h3 := hv .s3
    unfold Block.valid at h0 h1 h2 h3
    revert h0 h1 h2 h3; generalize a.evValid = v; generalize b.evValid = w; revert v w; decide
  obtain ⟨_, _, _, ⟨_, _⟩, ⟨_, _⟩, ⟨_, _⟩, _, ⟨_, _, _, _⟩, _, _⟩ := a
  obtain ⟨_, _, _, ⟨_, _⟩, ⟨_, _⟩, ⟨_, _⟩, _, ⟨_, _, _, _⟩, _, _⟩ := b
  have q0 := hq .main; have q1 := hq .sub; have r0 := hr .main; have r1 := hr .sub
  have b0 := hb .b0; have b1 := hb .b1
  have e0 := he .s0; have e1 := he .s1; have e2 := he .s2; have e3 := he .s3
  simp only [PerChan.get, PerBtn.get, PerSlot.get] at *
  subst_vars; rfl

/-! ### Outcomes -/

@[simp] theorem onBlock_eq (f : Block → Block) (s : State) : s.onBlock f = .next (s.setBlock (f s.block)) := rfl

end Machine

end Sys2Proof
end

