-- ==== Sys2Proof/Laws/Units.lean ====
section
/-! SUPPORT. One spec lemma per unit function: the decoder, the button, the rate limiter, and the counter arithmetic. -/

namespace Sys2Proof.Machine

/-! ### The time tests -/

theorem windowOpen_eq_false_iff (debMs : Word) (q : QdecRegs) (now : Word) :
    windowOpen debMs q now = false ↔ q.accVld = false ∨ debMs ≤ elapsed now q.accTs := by
  cases h : q.accVld <;> simp [windowOpen, h]

theorem cooldownPasses_iff (coolMs : Word) (r : ButtonRegs) (now : Word) :
    cooldownPasses coolMs r now = true ↔ r.relVld = false ∨ coolMs ≤ elapsed now r.relTs := by
  simp [cooldownPasses]

theorem rlAllow_iff (rateMs : Word) (r : RateRegs) (now : Word) :
    rlAllow rateMs r now = true ↔ r.vld = false ∨ rateMs ≤ elapsed now r.ts := by
  simp [rlAllow]

/-! ### The decoder (40_quadrature_decoder.md R75) -/

theorem qdecStep_accept {debMs : Word} {q : QdecRegs} {now : Word} (d : Bool)
    (hw : q.accVld = false ∨ debMs ≤ elapsed now q.accTs) (hq : q.clk = true) :
    qdecStep debMs false d now q = (if d then .plus else .minus, ⟨false, d, now, true⟩) := by
  simp [qdecStep, (windowOpen_eq_false_iff debMs q now).2 hw, hq]

theorem qdecStep_reject {debMs : Word} {q : QdecRegs} {now : Word} {c : Bool} (d : Bool)
    (h : ¬ ((q.accVld = false ∨ debMs ≤ elapsed now q.accTs) ∧ q.clk = true ∧ c = false)) :
    qdecStep debMs c d now q = (.zero, { q with clk := c, dt := d }) := by
  unfold qdecStep
  split
  · rfl
  · rename_i hw
    rw [Bool.not_eq_true] at hw
    have hw := (windowOpen_eq_false_iff debMs q now).1 hw
    cases hq : q.clk <;> cases c <;> simp_all

/-- The two cases of a poll. -/
theorem qdecStep_cases (debMs : Word) (c d : Bool) (now : Word) (q : QdecRegs) :
    ((q.accVld = false ∨ debMs ≤ elapsed now q.accTs) ∧ q.clk = true ∧ c = false ∧
      qdecStep debMs c d now q = (if d then .plus else .minus, ⟨false, d, now, true⟩)) ∨
    (¬ ((q.accVld = false ∨ debMs ≤ elapsed now q.accTs) ∧ q.clk = true ∧ c = false) ∧
      qdecStep debMs c d now q = (.zero, { q with clk := c, dt := d })) := by
  by_cases h : (q.accVld = false ∨ debMs ≤ elapsed now q.accTs) ∧ q.clk = true ∧ c = false
  · obtain ⟨hw, hq, rfl⟩ := h
    exact .inl ⟨hw, hq, rfl, qdecStep_accept d hw hq⟩
  · exact .inr ⟨h, qdecStep_reject d h⟩

/-- Every poll stores the sampled levels (R80). -/
@[simp] theorem qdecStep_levels (debMs : Word) (c d : Bool) (now : Word) (q : QdecRegs) :
    (qdecStep debMs c d now q).2.clk = c ∧ (qdecStep debMs c d now q).2.dt = d := by
  rcases qdecStep_cases debMs c d now q with ⟨-, -, rfl, h⟩ | ⟨-, h⟩ <;> simp [h]

/-! ### The button (41_edge_button.md R86) -/

theorem btnPoll_press {coolMs : Word} {r : ButtonRegs} {now : Word} (hl : r.line = false) (hp : r.pressed = false)
    (hc : r.relVld = false ∨ coolMs ≤ elapsed now r.relTs) :
    btnPoll coolMs true now r = (.pressed, { r with line := true, pressed := true }) := by
  simp [btnPoll, hl, hp, (cooldownPasses_iff coolMs r now).2 hc]

theorem btnPoll_release {coolMs : Word} {r : ButtonRegs} {now : Word} (hl : r.line = true) (hp : r.pressed = true) :
    btnPoll coolMs false now r = (.released, ⟨false, false, now, true⟩) := by
  simp [btnPoll, hl, hp]

theorem btnPoll_noEdge {coolMs : Word} {r : ButtonRegs} {now : Word} {a : Bool}
    (h1 : ¬ (a = true ∧ r.line = false ∧ r.pressed = false ∧ (r.relVld = false ∨ coolMs ≤ elapsed now r.relTs)))
    (h2 : ¬ (a = false ∧ r.line = true ∧ r.pressed = true)) :
    btnPoll coolMs a now r = (.noEdge, { r with line := a }) := by
  rw [← cooldownPasses_iff] at h1
  unfold btnPoll
  cases a <;> cases hl : r.line <;> cases hp : r.pressed <;> simp_all

/-- The three cases of a poll. -/
theorem btnPoll_cases (coolMs : Word) (a : Bool) (now : Word) (r : ButtonRegs) :
    ((a = true ∧ r.line = false ∧ r.pressed = false ∧ (r.relVld = false ∨ coolMs ≤ elapsed now r.relTs)) ∧
      btnPoll coolMs a now r = (.pressed, { r with line := true, pressed := true })) ∨
    ((a = false ∧ r.line = true ∧ r.pressed = true) ∧ btnPoll coolMs a now r = (.released, ⟨false, false, now, true⟩)) ∨
    (¬ (a = true ∧ r.line = false ∧ r.pressed = false ∧ (r.relVld = false ∨ coolMs ≤ elapsed now r.relTs)) ∧
      ¬ (a = false ∧ r.line = true ∧ r.pressed = true) ∧ btnPoll coolMs a now r = (.noEdge, { r with line := a })) := by
  by_cases h1 : a = true ∧ r.line = false ∧ r.pressed = false ∧ (r.relVld = false ∨ coolMs ≤ elapsed now r.relTs)
  · obtain ⟨rfl, hl, hp, hc⟩ := h1
    exact .inl ⟨⟨rfl, hl, hp, hc⟩, btnPoll_press hl hp hc⟩
  · by_cases h2 : a = false ∧ r.line = true ∧ r.pressed = true
    · obtain ⟨rfl, hl, hp⟩ := h2
      exact .inr (.inl ⟨⟨rfl, hl, hp⟩, btnPoll_release hl hp⟩)
    · exact .inr (.inr ⟨h1, h2, btnPoll_noEdge h1 h2⟩)

/-- Every poll stores the sampled level (R90). -/
@[simp] theorem btnPoll_line (coolMs : Word) (a : Bool) (now : Word) (r : ButtonRegs) :
    (btnPoll coolMs a now r).2.line = a := by
  rcases btnPoll_cases coolMs a now r with ⟨⟨rfl, -⟩, h⟩ | ⟨⟨rfl, -⟩, h⟩ | ⟨-, -, h⟩ <;> simp [h]

/-! ### Counter arithmetic (43_event_router.md R112, 30_encoding.md R67) -/

@[simp] theorem addStep_plus (a : Byte) : addStep a (stepValue .plus) = a + 0x01 := by
  apply BitVec.eq_of_toNat_eq
  simp [addStep, stepValue, BitVec.toNat_ofInt]
  omega

@[simp] theorem addStep_minus (a : Byte) : addStep a (stepValue .minus) = a + 0xFF := by
  apply BitVec.eq_of_toNat_eq
  simp [addStep, stepValue, BitVec.toNat_ofInt]
  omega

end Sys2Proof.Machine
end

