-- ==== Sys2Proof/Laws/Router.lean ====
section
/-! SUPPORT. Each stage of a tick in its two cases, and every register after a run tick and after a warm-up tick. -/

namespace Sys2Proof.Machine

/-! ### The stages -/

theorem mainStage_emits {cfg : Config} {sample : Sample} {now : Word} {b : Block} (h : Emits cfg .main sample now b) :
    mainStage cfg sample now b =
      let b2 := (((b.setQdec .main ⟨false, dtLevel .main sample, now, true⟩).setMainIdx
        (b.mainIdx + stepByte .main sample)).setSubIdx 0).setRl .main ⟨now, true⟩
      (b2, some (makeEvent .mainRotate now b2)) := by
  obtain ⟨⟨hw, hq, hc⟩, ha⟩ := h
  have ha := (rlAllow_iff _ _ _).2 ha
  unfold mainStage
  rw [hc, qdecStep_accept _ hw hq]
  cases hd : dtLevel .main sample <;> simp_all [stepByte, rlRecord]

theorem mainStage_quiet {cfg : Config} {sample : Sample} {now : Word} {b : Block}
    (h : ¬ Emits cfg .main sample now b) :
    mainStage cfg sample now b =
      (b.setQdec .main (qdecStep cfg.debMs (clkLevel .main sample) (dtLevel .main sample) now b.qdec.main).2, none) := by
  unfold mainStage
  rcases qdecStep_cases cfg.debMs (clkLevel .main sample) (dtLevel .main sample) now b.qdec.main with
    ⟨hw, hq, hc, e⟩ | ⟨hn, e⟩
  · have ha : ¬ rlAllow cfg.rateMs b.rl.main now = true := fun ha => h ⟨⟨hw, hq, hc⟩, (rlAllow_iff _ _ _).1 ha⟩
    simp [ha]
  · simp [e]

theorem subStage_emits {cfg : Config} {sample : Sample} {now : Word} {b : Block} (h : Emits cfg .sub sample now b) :
    subStage cfg sample now b =
      let b2 := ((b.setQdec .sub ⟨false, dtLevel .sub sample, now, true⟩).setSubIdx
        (b.subIdx + stepByte .sub sample)).setRl .sub ⟨now, true⟩
      (b2, some (makeEvent .subRotate now b2)) := by
  obtain ⟨⟨hw, hq, hc⟩, ha⟩ := h
  have ha := (rlAllow_iff _ _ _).2 ha
  unfold subStage
  rw [hc, qdecStep_accept _ hw hq]
  cases hd : dtLevel .sub sample <;> simp_all [stepByte, rlRecord]

theorem subStage_quiet {cfg : Config} {sample : Sample} {now : Word} {b : Block} (h : ¬ Emits cfg .sub sample now b) :
    subStage cfg sample now b =
      (b.setQdec .sub (qdecStep cfg.debMs (clkLevel .sub sample) (dtLevel .sub sample) now b.qdec.sub).2, none) := by
  unfold subStage
  rcases qdecStep_cases cfg.debMs (clkLevel .sub sample) (dtLevel .sub sample) now b.qdec.sub with
    ⟨hw, hq, hc, e⟩ | ⟨hn, e⟩
  · have ha : ¬ rlAllow cfg.rateMs b.rl.sub now = true := fun ha => h ⟨⟨hw, hq, hc⟩, (rlAllow_iff _ _ _).1 ha⟩
    simp [ha]
  · simp [e]

/-! ### Every register after a run tick (R104) -/

section
variable (cfg : Config) (sample : Sample) (now : Word) (b : Block)

theorem mainStage_fields :
    (mainStage cfg sample now b).1.warm = b.warm ∧
    (mainStage cfg sample now b).1.mainIdx =
      (if Emits cfg .main sample now b then b.mainIdx + stepByte .main sample else b.mainIdx) ∧
    (mainStage cfg sample now b).1.subIdx = (if Emits cfg .main sample now b then 0 else b.subIdx) ∧
    (mainStage cfg sample now b).1.qdec = b.qdec.set .main
      (qdecStep cfg.debMs (clkLevel .main sample) (dtLevel .main sample) now b.qdec.main).2 ∧
    (mainStage cfg sample now b).1.rl =
      (if Emits cfg .main sample now b then b.rl.set .main ⟨now, true⟩ else b.rl) ∧
    (mainStage cfg sample now b).1.bt = b.bt ∧
    (mainStage cfg sample now b).2 =
      (if Emits cfg .main sample now b then
        some (packRecord Kind.mainRotate.ordinal (b.mainIdx + stepByte .main sample) 0 now) else none) := by
  by_cases h : Emits cfg .main sample now b
  · have e : qdecStep cfg.debMs (clkLevel .main sample) (dtLevel .main sample) now b.qdec.main =
        (if dtLevel .main sample then .plus else .minus, ⟨false, dtLevel .main sample, now, true⟩) := by
      rw [h.1.2.2]; exact qdecStep_accept _ h.1.1 h.1.2.1
    rw [mainStage_emits h]
    simp only [if_pos h, e]
    exact ⟨rfl, rfl, rfl, rfl, rfl, rfl, rfl⟩
  · rw [mainStage_quiet h]
    simp only [if_neg h, and_true]
    exact ⟨rfl, rfl, rfl, rfl, rfl, rfl⟩

theorem subStage_fields :
    (subStage cfg sample now b).1.warm = b.warm ∧
    (subStage cfg sample now b).1.mainIdx = b.mainIdx ∧
    (subStage cfg sample now b).1.subIdx =
      (if Emits cfg .sub sample now b then b.subIdx + stepByte .sub sample else b.subIdx) ∧
    (subStage cfg sample now b).1.qdec = b.qdec.set .sub
      (qdecStep cfg.debMs (clkLevel .sub sample) (dtLevel .sub sample) now b.qdec.sub).2 ∧
    (subStage cfg sample now b).1.rl = (if Emits cfg .sub sample now b then b.rl.set .sub ⟨now, true⟩ else b.rl) ∧
    (subStage cfg sample now b).1.bt = b.bt ∧
    (subStage cfg sample now b).2 =
      (if Emits cfg .sub sample now b then
        some (packRecord Kind.subRotate.ordinal b.mainIdx (b.subIdx + stepByte .sub sample) now) else none) := by
  by_cases h : Emits cfg .sub sample now b
  · have e : qdecStep cfg.debMs (clkLevel .sub sample) (dtLevel .sub sample) now b.qdec.sub =
        (if dtLevel .sub sample then .plus else .minus, ⟨false, dtLevel .sub sample, now, true⟩) := by
      rw [h.1.2.2]; exact qdecStep_accept _ h.1.1 h.1.2.1
    rw [subStage_emits h]
    simp only [if_pos h, e]
    exact ⟨rfl, rfl, rfl, rfl, rfl, rfl, rfl⟩
  · rw [subStage_quiet h]
    simp only [if_neg h, and_true]
    exact ⟨rfl, rfl, rfl, rfl, rfl, rfl⟩

theorem buttonStage_fields (i : Btn) :
    (buttonStage cfg i sample now b).1 = b.setBt i (btnPoll cfg.coolMs (btnLevel i sample) now (b.bt.get i)).2 ∧
    (buttonStage cfg i sample now b).2 =
      (routeKind (cfg.route.get i) (btnPoll cfg.coolMs (btnLevel i sample) now (b.bt.get i)).1).map fun kind =>
        packRecord (Kind.button kind).ordinal b.mainIdx b.subIdx now :=
  ⟨rfl, rfl⟩

/-- `SUB_IDX` as stage 2 finds it: 0 when the main channel emitted at this tick (R106). -/
def subBase : Byte := if Emits cfg .main sample now b then 0 else b.subIdx

/-- `MAIN_IDX` after a run tick. -/
def mainAfter : Byte := if Emits cfg .main sample now b then b.mainIdx + stepByte .main sample else b.mainIdx

/-- `SUB_IDX` after a run tick. -/
def subAfter : Byte :=
  if Emits cfg .sub sample now b then subBase cfg sample now b + stepByte .sub sample else subBase cfg sample now b

/-- A decoder after a tick that polls it. -/
def qdecAfter (e : Chan) : QdecRegs :=
  (qdecStep cfg.debMs (clkLevel e sample) (dtLevel e sample) now (b.qdec.get e)).2

/-- A limiter after a run tick. -/
def rlAfter (c : Chan) : RateRegs := if Emits cfg c sample now b then ⟨now, true⟩ else b.rl.get c

/-- A button after a run tick. -/
def btAfter (i : Btn) : ButtonRegs := (btnPoll cfg.coolMs (btnLevel i sample) now (b.bt.get i)).2

/-- The record of button i's stage, the counters as the rotation stages left them. -/
def btnRecord (i : Btn) : Option Record :=
  (routeKind (cfg.route.get i) (btnPoll cfg.coolMs (btnLevel i sample) now (b.bt.get i)).1).map fun kind =>
    packRecord (Kind.button kind).ordinal (mainAfter cfg sample now b) (subAfter cfg sample now b) now

/-- What each stage puts in its slot. -/
def slotAfter : Slot → Option Record
  | .s0 =>
    if Emits cfg .main sample now b then some (packRecord Kind.mainRotate.ordinal (mainAfter cfg sample now b) 0 now)
    else none
  | .s1 =>
    if Emits cfg .sub sample now b then
      some (packRecord Kind.subRotate.ordinal (mainAfter cfg sample now b) (subAfter cfg sample now b) now)
    else none
  | .s2 => btnRecord cfg sample now b .b0
  | .s3 => btnRecord cfg sample now b .b1

/-- Stage 1 leaves what stage 2's emission reads. -/
theorem emits_sub_mainStage :
    Emits cfg .sub sample now (mainStage cfg sample now b).1 ↔ Emits cfg .sub sample now b := by
  obtain ⟨-, -, -, hq, hr, -, -⟩ := mainStage_fields cfg sample now b
  have e1 : (mainStage cfg sample now b).1.qdec.get .sub = b.qdec.get .sub := by rw [hq]; rfl
  have e2 : (mainStage cfg sample now b).1.rl.get .sub = b.rl.get .sub := by rw [hr]; split_ifs <;> rfl
  unfold Emits Accepts
  rw [e1, e2]

/-- The whole state after a run tick. -/
theorem runTick_fields :
    (runTick cfg sample now b).warm = b.warm ∧
    (runTick cfg sample now b).mainIdx = mainAfter cfg sample now b ∧
    (runTick cfg sample now b).subIdx = subAfter cfg sample now b ∧
    (∀ e, (runTick cfg sample now b).qdec.get e = qdecAfter cfg sample now b e) ∧
    (∀ c, (runTick cfg sample now b).rl.get c = rlAfter cfg sample now b c) ∧
    (∀ i, (runTick cfg sample now b).bt.get i = btAfter cfg sample now b i) ∧
    (∀ k, (runTick cfg sample now b).valid k = (slotAfter cfg sample now b k).isSome) ∧
    (∀ k, (runTick cfg sample now b).evSlot.get k = (slotAfter cfg sample now b k).getD 0) ∧
    (runTick cfg sample now b).lcTick = true ∧
    (runTick cfg sample now b).lcNow = now := by
  obtain ⟨hw, hm, hs, hq, hr, hb, ho⟩ := mainStage_fields cfg sample now b
  obtain ⟨hw', hm', hs', hq', hr', hb', ho'⟩ := subStage_fields cfg sample now (mainStage cfg sample now b).1
  have he := emits_sub_mainStage cfg sample now b
  have hsub : (subStage cfg sample now (mainStage cfg sample now b).1).1.subIdx = subAfter cfg sample now b := by
    rw [hs', hs]; simp only [he, subAfter, subBase]
  have hmain : (subStage cfg sample now (mainStage cfg sample now b).1).1.mainIdx = mainAfter cfg sample now b := by
    rw [hm', hm]; rfl
  have hbt : (subStage cfg sample now (mainStage cfg sample now b).1).1.bt = b.bt := by rw [hb', hb]
  have hslots : ∀ k, (match k with
      | .s0 => (mainStage cfg sample now b).2
      | .s1 => (subStage cfg sample now (mainStage cfg sample now b).1).2
      | .s2 => (buttonStage cfg .b0 sample now (subStage cfg sample now (mainStage cfg sample now b).1).1).2
      | .s3 => (buttonStage cfg .b1 sample now (buttonStage cfg .b0 sample now
          (subStage cfg sample now (mainStage cfg sample now b).1).1).1).2) = slotAfter cfg sample now b k := by
    intro k
    cases k
    · show (mainStage cfg sample now b).2 = _
      rw [ho]; simp only [slotAfter, mainAfter]; split_ifs <;> rfl
    · show (subStage cfg sample now (mainStage cfg sample now b).1).2 = _
      rw [ho', hm, hs]; simp only [he, slotAfter, mainAfter, subAfter, subBase]
      split_ifs <;> rfl
    · show (buttonStage cfg .b0 sample now (subStage cfg sample now (mainStage cfg sample now b).1).1).2 = _
      rw [(buttonStage_fields cfg sample now _ .b0).2, hbt, hmain, hsub]; rfl
    · show (buttonStage cfg .b1 sample now _).2 = _
      rw [(buttonStage_fields cfg sample now _ .b1).2, (buttonStage_fields cfg sample now _ .b0).1]
      simp only [Block.setBt_bt, Block.setBt_mainIdx, Block.setBt_subIdx, hbt, hmain, hsub, PerBtn.get_set]; rfl
  have h0 := hslots .s0; have h1 := hslots .s1; have h2 := hslots .s2; have h3 := hslots .s3
  simp only at h0 h1 h2 h3
  simp only [(buttonStage_fields cfg sample now _ .b0).1, hbt, PerBtn.get_b0] at h3
  unfold runTick
  simp only [lcStrobe_warm, lcStrobe_mainIdx, lcStrobe_subIdx, lcStrobe_qdec, lcStrobe_rl, lcStrobe_bt, lcStrobe_valid,
    lcStrobe_evSlot, lcStrobe_lcTick, lcStrobe_lcNow, emit_warm, emit_mainIdx, emit_subIdx, emit_qdec, emit_rl, emit_bt,
    emit_valid, emit_slot, h0, h1, h2, (buttonStage_fields cfg sample now _ _).1, Block.setBt_warm,
    Block.setBt_mainIdx, Block.setBt_subIdx, Block.setBt_qdec, Block.setBt_rl, Block.setBt_bt, hbt, hmain, hsub,
    hw', hw, hq', hq, hr', he, hr, true_and, and_true]
  refine ⟨?_, ?_, ?_, ?_, ?_⟩
  · intro e; cases e <;> rfl
  · intro c; cases c <;> simp only [rlAfter] <;> split_ifs <;> rfl
  · intro i; cases i <;> rfl
  · intro k; cases k <;> simp [← h3]
  · intro k; cases k <;> simp [← h3]

/-! ### Every register after a warm-up tick (R103) -/

/-- A decoder after a warm-up tick: loaded by the first, polled by the others. -/
def qdecWarm (e : Chan) : QdecRegs :=
  if b.warm = 0 then { b.qdec.get e with clk := clkLevel e sample, dt := dtLevel e sample }
  else qdecAfter cfg sample now b e

theorem warmTick_fields :
    (warmTick cfg sample now b).warm = b.warm + 1 ∧
    (warmTick cfg sample now b).mainIdx = b.mainIdx ∧
    (warmTick cfg sample now b).subIdx = b.subIdx ∧
    (∀ e, (warmTick cfg sample now b).qdec.get e = qdecWarm cfg sample now b e) ∧
    (warmTick cfg sample now b).rl = b.rl ∧
    (∀ i, (warmTick cfg sample now b).bt.get i = ⟨btnLevel i sample, false, 0, false⟩) ∧
    (warmTick cfg sample now b).silent := by
  unfold warmTick warmDecoder warmButton
  by_cases h : b.warm = 0
  · simp only [h, if_true, Block.setQdec_warm]
    refine ⟨by simpa using h, rfl, rfl, ?_, rfl, ?_, rfl, rfl, rfl, rfl⟩
    · intro e; cases e <;> simp [qdecWarm, h, qdecLoad]
    · intro i; cases i <;> rfl
  · simp only [h, if_false, Block.setQdec_warm]
    refine ⟨rfl, rfl, rfl, ?_, rfl, ?_, rfl, rfl, rfl, rfl⟩
    · intro e; rw [qdecWarm, if_neg h]; cases e <;> rfl
    · intro i; cases i <;> rfl

/-- A decoder after a poll, in the terms of the rules (R76, R77, R79, R80). -/
theorem qdecAfter_eq (e : Chan) :
    qdecAfter cfg sample now b e =
      if Accepts cfg e sample now b then ⟨false, dtLevel e sample, now, true⟩
      else { b.qdec.get e with clk := clkLevel e sample, dt := dtLevel e sample } := by
  unfold qdecAfter
  split_ifs with h
  · rw [h.2.2, qdecStep_accept _ h.1 h.2.1]
  · rw [qdecStep_reject _ h]

/-- The two forms of a tick (R102). -/
theorem tickBlock_cases :
    (b.warm < cfg.warm ∧ tickBlock cfg sample now b = warmTick cfg sample now b) ∨
    (¬ b.warm < cfg.warm ∧ tickBlock cfg sample now b = runTick cfg sample now b) := by
  unfold tickBlock
  by_cases h : b.warm < cfg.warm
  · exact .inl ⟨h, if_pos h⟩
  · exact .inr ⟨h, if_neg h⟩

end

end Sys2Proof.Machine
end

