-- ==== Sys2Proof/Laws/Step.lean ====
section
/-! SUPPORT. What a step can do, said once: the block after an edge, the step on each kind of input word, and runs of edges
one edge at a time. -/

namespace Sys2Proof.Machine

/-! ### One edge on the block (43_event_router.md R116) -/

/-- `Step(cfg, st, rst, tick, now, S)` of R116. -/
def edgeBlock (cfg : Config) (e : Edge) (b : Block) : Block :=
  if e.ctl.getLsbD 1 then Block.cleared
  else if e.ctl.getLsbD 0 then tickBlock cfg e.sample e.nowMs b else clearOutputs b

theorem exec_decodeEdge (e : Edge) (s : State) :
    exec (decodeEdge e) s = .next (s.setBlock (edgeBlock s.cfg e s.block)) := by
  unfold decodeEdge edgeBlock
  cases e.ctl.getLsbD 1 <;> cases e.ctl.getLsbD 0 <;> rfl

/-- An edge without `RESET` is a tick or an idle edge. -/
theorem edgeBlock_noReset {cfg : Config} {e : Edge} {b : Block} (h : e.noReset = true) :
    (e.isTick = true ∧ edgeBlock cfg e b = tickBlock cfg e.sample e.nowMs b) ∨
    (e.isTick = false ∧ edgeBlock cfg e b = clearOutputs b) := by
  unfold Edge.noReset at h
  unfold edgeBlock Edge.isTick
  cases h1 : e.ctl.getLsbD 1 <;> cases h0 : e.ctl.getLsbD 0 <;> simp_all

/-- A tick in the warm-up phase (R103). -/
theorem exec_tick_warm {sample : Sample} {now : Word} {s : State} (h : s.block.warm < s.cfg.warm) :
    exec (.tick sample now) s = .next (s.setBlock (warmTick s.cfg sample now s.block)) := by
  show Host.Outcome.next (s.setBlock (tickBlock _ _ _ _)) = _
  rw [tickBlock, if_pos h]

/-- A tick in the run phase (R104). -/
theorem exec_tick_run {sample : Sample} {now : Word} {s : State} (h : ¬ s.block.warm < s.cfg.warm) :
    exec (.tick sample now) s = .next (s.setBlock (runTick s.cfg sample now s.block)) := by
  show Host.Outcome.next (s.setBlock (tickBlock _ _ _ _)) = _
  rw [tickBlock, if_neg h]

/-- Every instruction answers a next state and changes the block only. -/
theorem exec_next (i : Instr) (s : State) : ∃ b, exec i s = .next (s.setBlock b) := by
  cases i <;> exact ⟨_, rfl⟩

/-! ### One step -/

theorem step_edge {s : State} {e : Edge} {rest : List Stimulus} (ha : s.cfg.accepted = true)
    (hs : s.stimulus = .edge e :: rest) : step s = exec (decodeEdge e) (s.setStimulus rest) := by
  simp [step, ha, fetch, hs, decode]

/-- With no input word left the edge is free (log 3). -/
theorem step_free (s : State) (ha : s.cfg.accepted = true) (hs : s.stimulus = []) :
    step s = .next ((fetch s).2.setBlock (edgeBlock s.cfg
      ⟨Config.freeCtl s.freeEdges, Config.freeSample s.freeEdges, Config.freeNow s.freeEdges⟩ s.block)) := by
  simp only [step, ha, fetch, hs, decode, if_true, exec_decodeEdge]

theorem step_refused {s : State} (ha : s.cfg.accepted = false) : step s = .refused .configRefused := by
  simp [step, ha]

/-- What a step can do. -/
theorem step_cases (s : State) :
    (s.cfg.accepted = false ∧ step s = .refused .configRefused) ∨
    (s.cfg.accepted = true ∧ ∃ e, decode (fetch s).1 = .error e ∧ step s = .refused (refusalOf e)) ∨
    (s.cfg.accepted = true ∧ ∃ i, decode (fetch s).1 = .ok i ∧ step s = exec i (fetch s).2) := by
  cases ha : s.cfg.accepted
  · exact .inl ⟨rfl, step_refused ha⟩
  · cases hd : decode (fetch s).1 with
    | error e => exact .inr (.inl ⟨rfl, e, rfl, by simp [step, ha, hd]⟩)
    | ok i => exact .inr (.inr ⟨rfl, i, rfl, by simp [step, ha, hd]⟩)

/-! ### Runs of edges -/

/-- Presenting an edge and stepping changes the block only. -/
theorem step_presented {s : State} (e : Edge) (ha : s.cfg.accepted = true) :
    step (s.presented e) = .next (s.setBlock (edgeBlock s.cfg e s.block)) := by
  rw [step_edge (s := s.presented e) (e := e) (rest := s.stimulus) ha rfl, exec_decodeEdge]
  rfl

@[simp] theorem runsTo_nil (s t : State) : RunsTo s [] t ↔ s = t := Iff.rfl

/-- A run one edge at a time. -/
theorem runsTo_cons {s t : State} {e : Edge} {es : List Edge} (ha : s.cfg.accepted = true) :
    RunsTo s (e :: es) t ↔ RunsTo (s.setBlock (edgeBlock s.cfg e s.block)) es t := by
  show (∃ u, _ ∧ _) ↔ _
  rw [step_presented e ha]
  constructor
  · rintro ⟨u, hu, h⟩; cases hu; exact h
  · intro h; exact ⟨_, rfl, h⟩

/-- The block after a run of edges. -/
def edgesBlock (cfg : Config) : List Edge → Block → Block
  | [], b => b
  | e :: es, b => edgesBlock cfg es (edgeBlock cfg e b)

/-- A run of edges always ends, and changes the block only. -/
theorem runsTo_iff {s t : State} (es : List Edge) (ha : s.cfg.accepted = true) :
    RunsTo s es t ↔ t = s.setBlock (edgesBlock s.cfg es s.block) := by
  induction es generalizing s with
  | nil => rw [runsTo_nil]; exact eq_comm
  | cons e es ih =>
    rw [runsTo_cons ha, ih (s := s.setBlock (edgeBlock s.cfg e s.block)) ha]
    rfl

theorem edgesBlock_append (cfg : Config) (es fs : List Edge) (b : Block) :
    edgesBlock cfg (es ++ fs) b = edgesBlock cfg fs (edgesBlock cfg es b) := by
  induction es generalizing b with
  | nil => rfl
  | cons e es ih => exact ih _

end Sys2Proof.Machine
end

