-- ==== Sys2Proof/Tests/Slice0.lean ====
section
/-! SUPPORT. The model's own tests: words and vectors written out from spec/ (95_test_vectors.md unless said otherwise), and
for each obligation with hypotheses a witness that meets them all. -/

open Sys2Proof Sys2Proof.Machine

namespace Sys2Proof.Tests

/-- "A fresh run-phase block" (95_test_vectors.md section 0). -/
def fresh10 : Block :=
  { Block.cleared with warm := 10, qdec := ⟨⟨true, true, 0, false⟩, ⟨true, true, 0, false⟩⟩ }

/-- A block with the default configuration, no input word left. -/
def st (b : Block) : State := { State.reset with block := b }

/-- The block after one instruction. -/
def after (i : Instr) (b : Block) : Block :=
  match exec i (st b) with
  | .next t => t.block
  | .fault _ => b
  | .refused _ => b

/-- After program P1's first emission: channel MAIN emitted at 200, its CLK is high again, EV_SLOT still shown. -/
def emitted200 : Block :=
  { fresh10 with
    mainIdx := 1, qdec := ⟨⟨true, true, 200, true⟩, ⟨true, true, 0, false⟩⟩, rl := ⟨⟨200, true⟩, ⟨0, false⟩⟩,
    evValid := 0b0001, evSlot := ⟨0x000000C8000100, 0, 0, 0⟩, lcTick := true, lcNow := 200 }

/-- Every register away from its reset value. -/
def busy : Block where
  warm := 10
  mainIdx := 7
  subIdx := 9
  qdec := ⟨⟨true, true, 100, true⟩, ⟨true, false, 90, true⟩⟩
  rl := ⟨⟨200, true⟩, ⟨5, true⟩⟩
  bt := ⟨⟨true, true, 3, true⟩, ⟨false, false, 500, true⟩⟩
  evValid := 0b1111
  evSlot := ⟨0x000001F4000100, 0x000001F4010101, 0x000001F4010102, 0x000001F4010104⟩
  lcTick := true
  lcNow := 500

/-! ### Well-formedness (43_event_router.md R106) -/

theorem test_wellFormed_refuses_mainRotate_with_sub : (Instr.evMainRotate 1 1 200).wellFormed = false := by decide

theorem test_wellFormed_accepts : (Instr.evMainRotate 1 0 200).wellFormed = true ∧
    (Instr.evSubRotate 1 255 200).wellFormed = true ∧ (Instr.tick 0x3F 0).wellFormed = true := by decide

/-! ### Decoding: words written out bit by bit (30_encoding.md R59, R62, R63, R72) -/

theorem test_decode_reset : decode (.edge ⟨0b10, 0, 0⟩) = .ok (.reset false) ∧
    decode (.edge ⟨0b11, 0x3F, 5⟩) = .ok (.reset true) := ⟨rfl, rfl⟩

theorem test_decode_tick : decode (.edge ⟨0b01, 0x3A, 500⟩) = .ok (.tick 0x3A 500) := rfl

theorem test_decode_idle : decode (.edge ⟨0b00, 0x3A, 500⟩) = .ok .idle := rfl

/-- R72's record and T1.1b, T1.1c: timestamp, sub_index, main_index, type from the top. -/
theorem test_decode_mainRotate :
    decode (.record .s0 0b00000000000000000000000011001000000000000000000100000000#56) =
      .ok (.evMainRotate 1 0 200) ∧
    decode (.record .s0 0x0000006400FF00) = .ok (.evMainRotate 255 0 100) := ⟨rfl, rfl⟩

theorem test_decode_subRotate : decode (.record .s1 0x0000006EFF0001) = .ok (.evSubRotate 0 255 110) := rfl

theorem test_decode_confirm : decode (.record .s2 0x0000014000FF02) = .ok (.evConfirm .b0 255 0 320) := rfl

theorem test_decode_cancel : decode (.record .s2 0x00000064000003) = .ok (.evCancel .b0 0 0 100) := rfl

theorem test_decode_aiPress : decode (.record .s3 0x00000474000004) = .ok (.evAiPress .b1 0 0 1140) := rfl

theorem test_decode_aiRelease : decode (.record .s3 0x00000028000005) = .ok (.evAiRelease .b1 0 0 40) := rfl

/-- R64 and R69: types 6 and 255 are refused, and a kind that is not of its slot. -/
theorem test_decode_refuses :
    decode (.record .s0 0x00000000000006) = .error (.reservedType 6) ∧
    decode (.record .s3 0x000000000000FF) = .error (.reservedType 255) ∧
    decode (.record .s1 0x00000000000000) = .error (.kindNotOfSlot 0 .s1) ∧
    decode (.record .s0 0x00000000000002) = .error (.kindNotOfSlot 2 .s0) := ⟨rfl, rfl, rfl, rfl⟩

/-- The bytes `00 01 00 C8 00 00 00` of MainRotate(1, 0, 200) (section 1.6), and `00 01 00 F0 FF FF FF` (section 2.5). -/
theorem test_record_bytes :
    recordBytes 0x000000C8000100 = [0x00, 0x01, 0x00, 0xC8, 0x00, 0x00, 0x00] ∧
    recordBytes (packRecord 0 1 0 4294967280) = [0x00, 0x01, 0x00, 0xF0, 0xFF, 0xFF, 0xFF] ∧
    decodeRecordBytes .s0 [0x00, 0x01, 0x00, 0xF0, 0xFF, 0xFF, 0xFF] = .ok (.evMainRotate 1 0 4294967280) ∧
    decodeRecordBytes .s0 [0x00, 0x01] = .error (.recordLength 2) := ⟨rfl, rfl, rfl, rfl⟩

/-- The table's words: 8-bit ones below 4 are control words (log 5), the others records. -/
theorem test_decodeTableWord :
    decodeTableWord 8 0b10 = some (.reset false) ∧ decodeTableWord 8 0b01 = some (.tick 0 0) ∧
    decodeTableWord 8 0b00 = some .idle ∧ decodeTableWord 8 0x04 = some (.evAiPress .b1 0 0 0) ∧
    decodeTableWord 8 0x05 = some (.evAiRelease .b1 0 0 0) ∧ decodeTableWord 8 0x06 = none ∧
    decodeTableWord 56 0x00 = some (.evMainRotate 0 0 0) ∧ decodeTableWord 56 0x01 = some (.evSubRotate 0 0 0) ∧
    decodeTableWord 56 0x02 = some (.evConfirm .b0 0 0 0) ∧ decodeTableWord 56 0x03 = some (.evCancel .b0 0 0 0) :=
  ⟨rfl, rfl, rfl, rfl, rfl, rfl, rfl, rfl, rfl, rfl⟩

theorem test_withFetchWord_runs_the_word :
    step (State.reset.withFetchWord 8 0b01) = exec (.tick 0 0) State.reset ∧
    step (State.reset.withFetchWord 56 0x000000C8000100) = exec (.evMainRotate 1 0 200) State.reset := ⟨rfl, rfl⟩

/-! ### Configurations (00_scope.md R6 to R10, 30_encoding.md R66) -/

/-- A raw configuration by its `P_WARM` and button 0's codes, the rest at the defaults. -/
def raw (warm : Nat) (press release : BitVec 3) : RawConfig := ⟨50, 100, 100, warm, ⟨press, 4⟩, ⟨release, 5⟩⟩

theorem test_loadConfig_default : loadConfig (raw 10 2 7) = .ok Config.default := by rfl

theorem test_loadConfig_refuses :
    loadConfig (raw 0 2 7) = .error (.warmOutOfRange 0) ∧ loadConfig (raw 16 2 7) = .error (.warmOutOfRange 16) ∧
    loadConfig (raw 10 0 7) = .error (.routeCode 0) ∧ loadConfig (raw 10 2 1) = .error (.routeCode 1) ∧
    loadConfig (raw 10 6 7) = .error (.routeCode 6) := ⟨rfl, rfl, rfl, rfl, rfl⟩

theorem test_step_refuses_warm_zero :
    step { State.reset with cfg := { Config.default with warm := 0 } } = .refused .configRefused := by rfl

/-! ### The units (sections 2.1 to 2.3) -/

/-- Q1, Q2, Q4, Q6, Q7, Q8, Q9, Q10, Q11, Q12, Q13. -/
theorem test_qdecStep_vectors :
    qdecStep 50 false true 5 ⟨true, true, 0, false⟩ = (.plus, ⟨false, true, 5, true⟩) ∧
    qdecStep 50 false false 5 ⟨true, true, 0, false⟩ = (.minus, ⟨false, false, 5, true⟩) ∧
    qdecStep 50 true true 5 ⟨false, true, 0, false⟩ = (.zero, ⟨true, true, 0, false⟩) ∧
    qdecStep 50 false true 149 ⟨true, true, 100, true⟩ = (.zero, ⟨false, true, 100, true⟩) ∧
    qdecStep 50 false false 150 ⟨true, true, 100, true⟩ = (.minus, ⟨false, false, 150, true⟩) ∧
    qdecStep 50 false true 160 ⟨false, true, 100, true⟩ = (.zero, ⟨false, true, 100, true⟩) ∧
    qdecStep 50 false true 0x20 ⟨true, true, 0xFFFFFFF0, true⟩ = (.zero, ⟨false, true, 0xFFFFFFF0, true⟩) ∧
    qdecStep 50 false false 0x22 ⟨true, true, 0xFFFFFFF0, true⟩ = (.minus, ⟨false, false, 0x22, true⟩) ∧
    qdecStep 50 false true 7 ⟨true, false, 0, false⟩ = (.plus, ⟨false, true, 7, true⟩) ∧
    qdecStep 50 false true 990 ⟨true, true, 1000, true⟩ = (.plus, ⟨false, true, 990, true⟩) ∧
    qdecStep 50 true false 120 ⟨true, true, 100, true⟩ = (.zero, ⟨true, false, 100, true⟩) := by decide

theorem test_qdecLoad_vector : qdecLoad true false ⟨false, false, 77, true⟩ = ⟨true, false, 77, true⟩ := by decide

/-- B1 to B7, B9, B10. -/
theorem test_btnPoll_vectors :
    btnPoll 100 true 10 ⟨false, false, 0, false⟩ = (.pressed, ⟨true, true, 0, false⟩) ∧
    btnPoll 100 true 20 ⟨true, true, 0, false⟩ = (.noEdge, ⟨true, true, 0, false⟩) ∧
    btnPoll 100 false 500 ⟨true, true, 0, false⟩ = (.released, ⟨false, false, 500, true⟩) ∧
    btnPoll 100 true 599 ⟨false, false, 500, true⟩ = (.noEdge, ⟨true, false, 500, true⟩) ∧
    btnPoll 100 true 650 ⟨true, false, 500, true⟩ = (.noEdge, ⟨true, false, 500, true⟩) ∧
    btnPoll 100 false 660 ⟨true, false, 500, true⟩ = (.noEdge, ⟨false, false, 500, true⟩) ∧
    btnPoll 100 true 600 ⟨false, false, 500, true⟩ = (.pressed, ⟨true, true, 500, true⟩) ∧
    btnPoll 100 true 0x23 ⟨false, false, 0xFFFFFFC0, true⟩ = (.noEdge, ⟨true, false, 0xFFFFFFC0, true⟩) ∧
    btnPoll 100 true 0x24 ⟨false, false, 0xFFFFFFC0, true⟩ = (.pressed, ⟨true, true, 0xFFFFFFC0, true⟩) := by decide

/-- S1, S2. -/
theorem test_btnSettle_vectors : btnSettle true = ⟨true, false, 0, false⟩ ∧ btnSettle false = ⟨false, false, 0, false⟩ := by
  decide

/-- RL1 to RL6. -/
theorem test_rateLimit_vectors :
    rlAllow 100 ⟨0, false⟩ 0 = true ∧ rlAllow 100 ⟨200, true⟩ 299 = false ∧ rlAllow 100 ⟨200, true⟩ 300 = true ∧
    rlAllow 100 ⟨0xFFFFFFB0, true⟩ 0x13 = false ∧ rlAllow 100 ⟨0xFFFFFFB0, true⟩ 0x14 = true ∧
    rlRecord 300 = ⟨300, true⟩ := by decide

/-! ### One step per instruction (sections 1 and 2.4) -/

/-- X1, X2. -/
theorem test_reset_clears : after (.reset true) busy = Block.cleared ∧ after (.reset false) busy = Block.cleared := by
  decide

/-- X13 and program P4: all four slots in one tick, and the end state. -/
theorem test_tick_all_four_slots : after (.tick 0x3A 500) fresh10 =
    { warm := 10, mainIdx := 1, subIdx := 1,
      qdec := ⟨⟨false, true, 500, true⟩, ⟨false, true, 500, true⟩⟩, rl := ⟨⟨500, true⟩, ⟨500, true⟩⟩,
      bt := ⟨⟨true, true, 0, false⟩, ⟨true, true, 0, false⟩⟩, evValid := 0b1111,
      evSlot := ⟨0x000001F4000100, 0x000001F4010101, 0x000001F4010102, 0x000001F4010104⟩,
      lcTick := true, lcNow := 500 } := by decide

/-- X4 and X5: the settling read, and a warm-up tick that accepts and discards a fall. -/
theorem test_tick_warm_up :
    after (.tick 0x0F 0) Block.cleared = { fresh10 with warm := 1 } ∧
    after (.tick 0x0E 80) { fresh10 with warm := 8 } =
      { fresh10 with warm := 9, qdec := ⟨⟨false, true, 80, true⟩, ⟨true, true, 0, false⟩⟩ } := by decide

/-- X3 after X13: the outputs go, the rest stays. -/
theorem test_idle_clears_outputs : after .idle busy =
    { busy with evValid := 0, evSlot := ⟨0, 0, 0, 0⟩, lcTick := false, lcNow := 0 } := by decide

/-- The records of section 1.6, T1.1c, X8, X12, T1.4b, T1.7a, each placed in its slot. -/
theorem test_evMainRotate : after (.evMainRotate 1 0 200) fresh10 =
    { fresh10 with evValid := 0b0001, evSlot := ⟨0x000000C8000100, 0, 0, 0⟩ } := by decide

theorem test_evSubRotate : after (.evSubRotate 0 255 110) fresh10 =
    { fresh10 with evValid := 0b0010, evSlot := ⟨0, 0x0000006EFF0001, 0, 0⟩ } := by decide

theorem test_evConfirm : after (.evConfirm .b0 0 0 100) fresh10 =
    { fresh10 with evValid := 0b0100, evSlot := ⟨0, 0, 0x00000064000002, 0⟩ } := by decide

theorem test_evCancel : after (.evCancel .b0 0 0 100) fresh10 =
    { fresh10 with evValid := 0b0100, evSlot := ⟨0, 0, 0x00000064000003, 0⟩ } := by decide

theorem test_evAiPress : after (.evAiPress .b1 0 0 1140) fresh10 =
    { fresh10 with evValid := 0b1000, evSlot := ⟨0, 0, 0, 0x00000474000004⟩ } := by decide

theorem test_evAiRelease : after (.evAiRelease .b1 0 0 40) fresh10 =
    { fresh10 with evValid := 0b1000, evSlot := ⟨0, 0, 0, 0x00000028000005⟩ } := by decide

/-- X8's delivery order, slot 2 before slot 3, the strobe last. -/
theorem test_delivery_order : (after (.tick 0x3F 100) fresh10).deliveries =
    [.deliver 0x00000064000002, .deliver 0x00000064000004, .tickLifecycle 100] := by decide

/-! ### Witnesses: each obligation's hypotheses, met together, at the ends of their ranges -/

/-- `st` with the input words `l` queued. -/
def queued (b : Block) (l : List Stimulus) : State := { st b with stimulus := l }

def tickEdge (sample : Sample) (now : Word) : Edge := ⟨0b01, sample, now⟩

def idleEdge : Edge := ⟨0b00, 0, 0⟩

theorem witness_EncodeOfDecodedWordIsTheWord :
    decode (.record .s3 0xFFFFFFFFFFFF05) = .ok (.evAiRelease .b1 255 255 0xFFFFFFFF) ∧
    decode (.edge ⟨0b01, 0x3F, 0xFFFFFFFF⟩) = .ok (.tick 0x3F 0xFFFFFFFF) := ⟨rfl, rfl⟩

theorem witness_ReservedRecordTypesAreRefusedAndNeverProduced :
    (6 ≤ recordType 0x00000000000006 ∧ 6 ≤ recordType 0x000000000000FF ∧ Config.default.accepted = true ∧
      (queued busy [.record .s0 0x00000000000006]).stimulus = [.record .s0 0x00000000000006]) ∧
    (after (.tick 0x3A 500) fresh10).valid .s0 = true ∧ (after (.tick 0x3A 500) fresh10).valid .s3 = true := by decide

theorem witness_SlotsHoldTheKindsOfTheirSource :
    ∃ t, exec (.tick 0x3A 500) (st fresh10) = .next t ∧ t.block.valid .s0 = true ∧ t.block.valid .s1 = true ∧
      t.block.valid .s2 = true ∧ t.block.valid .s3 = true := ⟨_, rfl, by decide⟩

/-- Types 0 and 1 out of their slot, and the button kinds' ends 2 and 5 in the rotation slots. -/
theorem witness_MisplacedRecordsAreRefused :
    Config.default.accepted = true ∧ recordType 0x00000000000000 = 0 ∧ Slot.s1 ≠ Slot.s0 ∧
    recordType 0x00000000000001 = 1 ∧ Slot.s0 ≠ Slot.s1 ∧
    (2 ≤ recordType 0x00000000000002 ∧ recordType 0x00000000000002 ≤ 5) ∧
    (2 ≤ recordType 0x00000000000005 ∧ recordType 0x00000000000005 ≤ 5) ∧
    (queued fresh10 [.record .s1 0x00000000000000]).stimulus = [.record .s1 0x00000000000000] := by decide

theorem witness_RecordBytesAreLittleEndian :
    (0 < 7 ∧ 6 < 7) ∧ recordOfBytes [5, 255, 255, 255, 255, 255, 255] = .ok 0xFFFFFFFFFFFF05 := ⟨by decide, rfl⟩

theorem witness_RecordFieldsAndNumber :
    ∃ t, exec (.tick 0x0E 200) (st { fresh10 with subIdx := 9 }) = .next t ∧ t.block.valid .s0 = true :=
  ⟨_, rfl, by decide⟩

/-- `P_WARM` at 1 and 15. -/
theorem witness_ConfigurationsAreAdmittedOrRefused :
    (∃ c, loadConfig (raw 1 2 7) = .ok c) ∧ (∃ c, loadConfig (raw 15 5 3) = .ok c) ∧ Config.default.accepted = true :=
  ⟨⟨_, rfl⟩, ⟨_, rfl⟩, rfl⟩

theorem witness_StepRunsTheDecodedInstruction :
    (Config.default.accepted = true ∧ (queued busy [.edge idleEdge]).stimulus = [.edge idleEdge] ∧
      decode (.edge idleEdge) = .ok .idle) ∧
    ((st busy).stimulus = [] ∧ ∀ c x n, ∃ i, decode (.edge ⟨c, x, n⟩) = .ok i) ∧
    decode (.record .s0 0x00000000000007) = .error (.reservedType 7) ∧
    ({ Config.default with warm := 0 } : Config).warm = 0 := ⟨⟨rfl, rfl, rfl⟩, ⟨rfl, fun _ _ _ => ⟨_, rfl⟩⟩, rfl, rfl⟩

theorem witness_ControlWordSelectsTheOperation :
    Config.default.accepted = true ∧ (queued busy [.edge ⟨0b11, 0x3F, 1⟩]).stimulus = [.edge ⟨0b11, 0x3F, 1⟩] ∧
    (⟨0b11, 0x3F, 1⟩ : Edge).ctl = 0b11 ∧ (⟨0b10, 0x3F, 1⟩ : Edge).ctl = 0b10 ∧ (tickEdge 0x3F 1).ctl = 0b01 ∧
    idleEdge.ctl = 0b00 := by decide

theorem witness_NoFaultAndEveryEdgeCompletes :
    (Config.default.accepted = true ∧ edgesOnly (queued busy [.edge idleEdge, .edge (tickEdge 0x3F 1)]).stimulus = true) ∧
    (raw 0 2 7).warm = 0 ∧
    (6 : BitVec 3) ∈ [(raw 10 2 6).onPress.b0, (raw 10 2 6).onPress.b1, (raw 10 2 6).onRelease.b0,
      (raw 10 2 6).onRelease.b1] := by decide

theorem witness_StepsKeepTheConfiguration :
    (∃ t, step (queued busy [.edge idleEdge]) = .next t) ∧ ∃ t, step (st busy) = .next t :=
  ⟨⟨_, rfl⟩, ⟨_, (step_free (st busy) (by decide) rfl)⟩⟩

theorem witness_ResetClearsEveryRegister : (st busy).cfg.accepted = true := by decide

theorem witness_IdleEdgesAreInvisible :
    (st busy).cfg.accepted = true ∧ (tickEdge 0x0E 600).ctl ≠ 0b00 ∧ idleEdge.ctl = 0b00 := by decide

theorem witness_ResetForgetsThePast :
    (st busy).cfg.accepted = true ∧ (⟨0b10, 0, 0⟩ : Edge).ctl = 0b10 ∧ (⟨0b11, 0, 0⟩ : Edge).ctl = 0b11 := by decide

theorem witness_OutputsHaveNoFeedback (i : Instr) (h : i = .idle ∨ i = .reset true ∨ i = .tick 0x0E 5) :
    i = .idle ∨ (∃ x, i = .reset x) ∨ ∃ sample now, i = .tick sample now := by
  rcases h with h | h | h
  · exact .inl h
  · exact .inr (.inl ⟨_, h⟩)
  · exact .inr (.inr ⟨_, _, h⟩)

/-- The first warm-up tick, and the last one with a decoder that accepts at exactly `P_DEB_MS` and one that does not. -/
theorem witness_WarmTickEffects :
    (st Block.cleared).block.warm < (st Block.cleared).cfg.warm ∧
    ({ busy with warm := 9 }.warm < Config.default.warm ∧
      Accepts Config.default .main 0x0E 150 { busy with warm := 9 } ∧
      ¬ Accepts Config.default .main 0x0E 149 { busy with warm := 9 }) := by decide

theorem witness_WarmCountsTheWarmUpTicks :
    (st fresh10).block.warm ≤ (st fresh10).cfg.warm ∧ (st Block.cleared).block.warm ≤ (st Block.cleared).cfg.warm := by
  decide

/-- `P_WARM` = 1: one tick is the warm-up, two ticks reach the run phase. -/
theorem witness_WarmUpLastsExactlyPWarmTicks :
    let cfg : Config := { Config.default with warm := 1 }
    let one := [idleEdge, tickEdge 0x0F 0]
    let two := [tickEdge 0x0F 0, idleEdge, tickEdge 0x0F 10]
    cfg.accepted = true ∧ (∀ e ∈ one, e.noReset = true) ∧ (∀ e ∈ two, e.noReset = true) ∧
    ticksIn one ≤ cfg.warm.toNat ∧ ticksIn two > cfg.warm.toNat ∧ two.getLast? = some (tickEdge 0x0F 10) ∧
    (tickEdge 0x0F 10).isTick = true := by decide

/-- Program P5: warm-up tick 9 accepts a main fall at 80; ticks at 90 and 100, CLK high at the second; a fall at 129 is 49 ms
after it, one at 130 is 50. Then the same of the sub channel, with the last warm-up tick. -/
theorem witness_WarmUpFallOpensTheWindow :
    let b := { fresh10 with warm := 8 }
    let es := [tickEdge 0x0E 90, idleEdge, tickEdge 0x0F 100]
    let u := edgesBlock Config.default es (after (.tick 0x0E 80) b)
    let b' := { fresh10 with warm := 9 }
    let es' := [tickEdge 0x0F 100]
    let u' := edgesBlock Config.default es' (after (.tick 0x0B 80) b')
    (Config.default.accepted = true ∧ b.warm ≠ 0 ∧ b.warm < Config.default.warm ∧
      Accepts Config.default .main 0x0E 80 b ∧
      (∀ x ∈ es, x.noReset = true ∧ (x.isTick = true → elapsed x.nowMs 80 < Config.default.debMs)) ∧
      (tickEdge 0x0E 129).isTick = true ∧ clkLevel .main (tickEdge 0x0E 129).sample = false ∧
      u.qdec.main.clk = true ∧ u.warm = Config.default.warm) ∧
    (b'.warm ≠ 0 ∧ b'.warm < Config.default.warm ∧ Accepts Config.default .sub 0x0B 80 b' ∧
      (∀ x ∈ es', x.noReset = true ∧ (x.isTick = true → elapsed x.nowMs 80 < Config.default.debMs)) ∧
      clkLevel .sub (tickEdge 0x0B 129).sample = false ∧ u'.qdec.sub.clk = true ∧ u'.warm = Config.default.warm) ∧
    elapsed 129 80 < Config.default.debMs ∧ Config.default.debMs ≤ elapsed 130 80 ∧
    (b.rl.get .main).vld = false ∧ (b'.rl.get .sub).vld = false := by decide

theorem witness_RunTickStrobesTheLifecycle : ¬ (st fresh10).block.warm < (st fresh10).cfg.warm := by decide

/-- The limiter at 100 (emits), at 99 with the step accepted (dropped), and a poll with no fall. -/
theorem witness_MainChannelStage :
    ¬ emitted200.warm < Config.default.warm ∧
    Emits Config.default .main 0x0E 300 emitted200 ∧
    (Accepts Config.default .main 0x0E 299 emitted200 ∧ ¬ Emits Config.default .main 0x0E 299 emitted200) ∧
    ¬ Accepts Config.default .main 0x0E 249 emitted200 ∧ ¬ Emits Config.default .main 0x0F 300 emitted200 := by decide

theorem witness_SubChannelStage :
    ¬ busy.warm < Config.default.warm ∧
    Emits Config.default .sub 0x0B 140 busy ∧ ¬ Accepts Config.default .sub 0x0B 139 busy ∧
    (Emits Config.default .sub 0x3A 500 fresh10 ∧ Emits Config.default .main 0x3A 500 fresh10) ∧
    ¬ Emits Config.default .sub 0x0F 140 busy := by decide

theorem witness_MainStepResetsTheSubIndex :
    ¬ fresh10.warm < Config.default.warm ∧
    (Emits Config.default .main 0x3A 500 fresh10 ∧ Emits Config.default .sub 0x3A 500 fresh10) ∧
    (Emits Config.default .main 0x0E 500 fresh10 ∧ ¬ Emits Config.default .sub 0x0E 500 fresh10) ∧
    (¬ Emits Config.default .main 0x0F 500 fresh10 ∧ ¬ Emits Config.default .sub 0x0F 500 fresh10) := by decide

/-- Button 1 presses at exactly `P_COOL_MS` and not before, button 0 releases; each has a route and a `NONE`. -/
theorem witness_ButtonStages :
    ¬ busy.warm < Config.default.warm ∧
    Presses Config.default .b1 0x2F 600 busy ∧
    (¬ Presses Config.default .b1 0x2F 599 busy ∧ ¬ Releases .b1 0x2F busy) ∧ Releases .b0 0x0F busy ∧
    Config.default.route.b1.onPress = some .aiPress ∧ Config.default.route.b1.onRelease = some .aiRelease ∧
    Config.default.route.b0.onRelease = none ∧
    (after (.tick 0x0F 600) busy).valid Btn.b0.slot = false := by decide

theorem witness_DeliveriesAreOrdered : ¬ (st fresh10).block.warm < (st fresh10).cfg.warm ∧
    (after (.tick 0x3A 500) fresh10).valid .s3 = true := by decide

theorem witness_CountersMoveOnlyWithAnEvent :
    (∃ t, exec (.tick 0x3A 500) (st fresh10) = .next t ∧ t.block.mainIdx ≠ fresh10.mainIdx ∧
      t.block.subIdx ≠ fresh10.subIdx) ∧ ∀ x, Instr.tick 0x3A 500 ≠ .reset x :=
  ⟨⟨_, rfl, by decide⟩, fun _ h => nomatch h⟩

/-- Lines that rise, fall in DT and stay, and the buttons unchanged. -/
theorem witness_QuietRunTickFrame :
    ¬ busy.warm < Config.default.warm ∧ (∀ e, (busy.qdec.get e).clk = true → clkLevel e 0x15 = true) ∧
    ∀ i, (busy.bt.get i).line = btnLevel i 0x15 := by
  refine ⟨by decide, fun e => ?_, fun i => ?_⟩
  · cases e <;> decide
  · cases i <;> decide

theorem witness_CancelNeedsARoute :
    ∃ t, (st fresh10).cfg.route = Config.default.route ∧ exec (.tick 0x3F 100) (st fresh10) = .next t ∧
      t.block.valid .s2 = true := ⟨_, rfl, rfl, by decide⟩

theorem witness_ElapsedIsModular :
    windowOpen 50 ⟨true, true, 0xFFFFFFF0, true⟩ 0x21 = true ∧ windowOpen 50 ⟨true, true, 0xFFFFFFF0, true⟩ 0x22 = false ∧
    cooldownPasses 100 ⟨false, false, 500, true⟩ 600 = true ∧ rlAllow 100 ⟨200, true⟩ 300 = true := by decide

theorem witness_CounterArithmeticWraps : (254 : Byte) ≠ 255 ∧ (0 : Byte) ≠ 255 ∧ (1 : Byte) ≠ 0 ∧ (255 : Byte) ≠ 0 := by
  decide

/-- `now` back by 1, and by the most that the default window allows. -/
theorem witness_BackwardsClockExpiresTheWindows :
    ((1 : Word) ≠ 0 ∧ (50 : Word).toNat + (1 : Word).toNat ≤ 2 ^ 32) ∧
    ((0xFFFFFFCE : Word) ≠ 0 ∧ (50 : Word).toNat + (0xFFFFFFCE : Word).toNat ≤ 2 ^ 32) ∧
    busy.qdec.main.accTs = 100 ∧ (busy.bt.get .b1).relTs = 500 ∧ busy.rl.sub.ts = 5 := by decide

/-- Two polls with a step, both directions, and the window shut at exactly 50 ms. -/
theorem witness_StepOnlyOnClkFallWithDirectionByDt :
    let q1 := (qdecStep 50 true true 149 ⟨false, true, 100, true⟩).2
    (qdecStep 50 false true 150 q1).1 ≠ .zero ∧ (qdecStep 50 false false 150 q1).1 ≠ .zero ∧
    windowOpen 50 q1 150 = false := by decide

theorem witness_WindowOpensAtAnAcceptedTransition :
    let q : QdecRegs := ⟨true, true, 100, true⟩
    windowOpen 50 q 149 = true ∧ windowOpen 50 q 100 = true ∧ (windowOpen 50 q 150 = false ∧ q.clk = true) ∧
    stepValue (qdecStep 50 true true 150 q).1 = 0 := by decide

theorem witness_ConsumedFallIsNeverReported :
    windowOpen 50 ⟨true, true, 100, true⟩ (DecoderPoll.mk false true 149).now = true ∧
    (DecoderPoll.mk false true 149).clk = false ∧
    ∀ x ∈ [DecoderPoll.mk false true 160, DecoderPoll.mk false false 400], x.clk = false := by decide

/-- Two accepted transitions exactly 50 ms apart. -/
theorem witness_AcceptedTransitionsAreSpaced :
    acceptedTimes 50 ⟨true, true, 0, false⟩ [⟨false, true, 200⟩, ⟨true, true, 249⟩, ⟨false, true, 250⟩] = [200, 250] := by
  decide

theorem witness_ButtonPollReportsEdges :
    (btnPoll 100 true 600 ⟨false, false, 500, true⟩).1 = .pressed ∧
    (btnPoll 100 true 599 ⟨false, false, 500, true⟩).1 = .noEdge ∧
    (btnPoll 100 false 600 ⟨true, true, 500, true⟩).1 = .released := by decide

/-- A press, a release, a lost press and a press (vectors T1.4a, T1.4b). -/
theorem witness_ButtonEdgesAlternate :
    buttonEdges 100 ButtonRegs.cleared [⟨true, 1000⟩, ⟨false, 1040⟩, ⟨true, 1139⟩, ⟨false, 1139⟩, ⟨true, 1140⟩] =
      [(.pressed, 1000), (.released, 1040), (.pressed, 1140)] := by decide

theorem witness_SuppressedPressIsLost :
    let r : ButtonRegs := ⟨false, false, 500, true⟩
    r.line = false ∧ r.pressed = false ∧ r.relVld = true ∧ elapsed 599 r.relTs < 100 ∧
    ∀ x ∈ [ButtonPoll.mk true 600, ButtonPoll.mk true 650], x.level = true := by decide

theorem witness_ButtonHeldThroughWarmUpIsSilent :
    ∀ x ∈ [ButtonPoll.mk true 100, ButtonPoll.mk true 110], x.level = true := by decide

/-- Two blocks that differ in both stored DT bits, and a run of two edges from each. -/
theorem witness_StoredDtIsUnobservable :
    let s := st busy
    let s' := st { busy with qdec := ⟨{ busy.qdec.main with dt := false }, { busy.qdec.sub with dt := true }⟩ }
    let es := [idleEdge, tickEdge 0x0A 600]
    s.cfg.accepted = true ∧ s'.cfg = s.cfg ∧ s ≠ s' ∧ s'.block.forgetDt = s.block.forgetDt ∧
    (∃ t, RunsTo s es t) ∧ ∃ t, RunsTo s' es t :=
  ⟨by decide, by decide, by decide, by decide, ⟨_, (runsTo_iff _ (by decide)).2 rfl⟩,
    ⟨_, (runsTo_iff _ (by decide)).2 rfl⟩⟩

/-- The samples agree in MC and MD only, and the blocks in the main channel only. -/
theorem witness_MainChannelIgnoresTheOtherLines :
    let s := st fresh10
    let s' := st { fresh10 with subIdx := 4, bt := busy.bt, rl := ⟨fresh10.rl.main, ⟨5, true⟩⟩ }
    let es := [tickEdge 0x0E 600]
    let es' := [tickEdge 0x32 600]
    s.cfg.accepted = true ∧ s'.cfg = s.cfg ∧
    List.Forall₂ (fun x y => x.ctl = y.ctl ∧ x.nowMs = y.nowMs ∧ clkLevel .main x.sample = clkLevel .main y.sample ∧
      dtLevel .main x.sample = dtLevel .main y.sample) es es' ∧
    s'.block.warm = s.block.warm ∧ s'.block.mainIdx = s.block.mainIdx ∧ s'.block.qdec.main = s.block.qdec.main ∧
    s'.block.rl.main = s.block.rl.main ∧ s'.block.valid .s0 = s.block.valid .s0 ∧
    s'.block.evSlot.s0 = s.block.evSlot.s0 ∧ (∃ t, RunsTo s es t) ∧ ∃ t, RunsTo s' es' t :=
  ⟨by decide, by decide, .cons (by decide) .nil, by decide, by decide, by decide, by decide, by decide, by decide,
    ⟨_, (runsTo_iff _ (by decide)).2 rfl⟩, ⟨_, (runsTo_iff _ (by decide)).2 rfl⟩⟩

/-- The samples agree in SC, SD and B1 only, and the blocks in the sub decoder, the sub limiter and button 1. -/
theorem witness_UnitsFollowTheirOwnLines :
    let s := st busy
    let s' := st { busy with
      mainIdx := 0, qdec := ⟨fresh10.qdec.main, busy.qdec.sub⟩, rl := ⟨⟨0, false⟩, busy.rl.sub⟩,
      bt := ⟨fresh10.bt.b0, busy.bt.b1⟩ }
    let es := [tickEdge 0x2B 600]
    let es' := [tickEdge 0x38 600]
    s.cfg.accepted = true ∧ s'.cfg = s.cfg ∧ s'.block.warm = s.block.warm ∧
    (∃ t, RunsTo s es t) ∧ (∃ t, RunsTo s' es' t) ∧
    (List.Forall₂ (fun x y => x.ctl = y.ctl ∧ x.nowMs = y.nowMs ∧ clkLevel .sub x.sample = clkLevel .sub y.sample ∧
      dtLevel .sub x.sample = dtLevel .sub y.sample) es es' ∧
      s'.block.qdec.get .sub = s.block.qdec.get .sub ∧ s'.block.rl.get .sub = s.block.rl.get .sub) ∧
    (List.Forall₂ (fun x y => x.ctl = y.ctl ∧ x.nowMs = y.nowMs ∧ btnLevel .b1 x.sample = btnLevel .b1 y.sample) es es' ∧
      s'.block.bt.get .b1 = s.block.bt.get .b1) :=
  ⟨by decide, by decide, by decide, ⟨_, (runsTo_iff _ (by decide)).2 rfl⟩, ⟨_, (runsTo_iff _ (by decide)).2 rfl⟩,
    ⟨.cons (by decide) .nil, by decide, by decide⟩, ⟨.cons (by decide) .nil, by decide⟩⟩

/-- A state that meets the invariant with a record in slot 0: CLK falls at 200 in a fresh run-phase block. -/
def at200 : Block := after (.tick 0x0E 200) fresh10

theorem at200_block_inv : at200.Inv Config.default := by
  refine ⟨by decide, ?_, ?_, ?_, ?_, ?_, by decide, fun h => absurd h (by decide), ?_, by decide, by decide, by decide,
    by decide, ?_⟩
  · intro i; cases i <;> decide
  · intro e; cases e <;> decide
  · intro c; cases c <;> decide
  · intro i; cases i <;> decide
  · intro c; cases c <;> decide
  · intro k; cases k <;> decide
  · intro i h; cases i <;> exact absurd h (by decide)

theorem at200_inv (l : List Stimulus) (h : edgesOnly l = true) : (queued at200 l).Inv := ⟨by rfl, h, at200_block_inv⟩

/-- The main channel emits at 200, its CLK rises at 210, and it emits again at exactly 300. -/
theorem witness_EmissionsOfAChannelAreSpaced :
    let s := st at200
    let es := [tickEdge 0x0F 210]
    let e := tickEdge 0x0E 300
    s.Inv ∧ s.block.valid (chanSlot .main) = true ∧ (∀ x ∈ es, x.noReset = true) ∧ e.noReset = true ∧
    (∀ pre suf, es = pre ++ suf → pre ≠ [] → ∀ v, RunsTo s pre v → v.block.valid (chanSlot .main) = false) ∧
    ∃ t u, RunsTo s es t ∧ RunsTo t [e] u ∧ u.block.valid (chanSlot .main) = true := by
  refine ⟨at200_inv [] rfl, by decide, by decide, by decide, ?_, ?_⟩
  · intro pre suf h hne v hv
    rcases pre with _ | ⟨x, _ | ⟨y, l⟩⟩
    · exact absurd rfl hne
    · cases h
      rw [runsTo_iff _ (by decide)] at hv
      subst hv
      decide
    · exact absurd (congrArg List.length h) (by simp)
  · exact ⟨_, _, (runsTo_iff _ (by decide)).2 rfl, (runsTo_iff _ (by decide)).2 rfl, by decide⟩

theorem witness_StepKeepsTheInvariant : (queued at200 [.edge (tickEdge 0x3F 300)]).Inv ∧
    ∃ t, step (queued at200 [.edge (tickEdge 0x3F 300)]) = .next t := ⟨at200_inv _ rfl, ⟨_, rfl⟩⟩

theorem witness_ResetMeetsTheInvariant : ({ Config.default with warm := 15 } : Config).accepted = true := by decide

end Sys2Proof.Tests
end

section
/-! PROOFS. The scope's statements (00_scope.md): the configuration is constant (R13), the default routes give no Cancel
(R10, 90_conflicts.md C3), elapsed time is modular (R16). -/

namespace Sys2Proof.Machine

/-! ### What no instruction and no step writes (R13, logs 2 and 3) -/

@[simp] theorem fetch_cfg (s : State) : (fetch s).2.cfg = s.cfg := by
  unfold fetch; split <;> rfl

@[simp] theorem fetch_stimulus (s : State) : (fetch s).2.stimulus = s.stimulus.tail := by
  unfold fetch; split <;> simp [*]

@[simp] theorem fetch_freeEdges (s : State) :
    (fetch s).2.freeEdges = if s.stimulus = [] then s.freeEdges + 1 else s.freeEdges := by
  unfold fetch; split <;> simp [*]

/-- A step that answers next has taken the next input word and changed the block; nothing else. -/
theorem step_next {s t : State} (h : step s = .next t) : ∃ b, t = (fetch s).2.setBlock b := by
  rcases step_cases s with ⟨-, hs⟩ | ⟨-, e, -, hs⟩ | ⟨-, i, -, hs⟩
  · rw [hs] at h; cases h
  · rw [hs] at h; cases h
  · obtain ⟨b, hb⟩ := exec_next i (fetch s).2
    rw [hs, hb] at h
    cases h
    exact ⟨b, rfl⟩

/-- Settles O13: every instruction changes the block only, and a step does so after taking its input word. -/
theorem stepsKeepTheConfiguration : Obligations.StepsKeepTheConfiguration := by
  unfold Obligations.StepsKeepTheConfiguration
  constructor
  · intro i s
    obtain ⟨b, hb⟩ := exec_next i s
    exact ⟨_, hb, rfl, rfl, rfl⟩
  · intro s t h
    obtain ⟨b, rfl⟩ := step_next h
    exact ⟨fetch_cfg s, fetch_stimulus s, fetch_freeEdges s⟩

/-! ### The kinds of a tick's records (30_encoding.md R69, 43_event_router.md R105, R107, R108) -/

/-- Slot k can hold a record of this kind under these routes: the rotation of its channel, or a kind its button is
routed to (R69). -/
def SlotHolds (route : PerBtn Route) : Slot → Kind → Prop
  | .s0, kind => kind = .mainRotate
  | .s1, kind => kind = .subRotate
  | .s2, kind => ∃ k, kind = .button k ∧ Route.produces route.b0 k
  | .s3, kind => ∃ k, kind = .button k ∧ Route.produces route.b1 k

/-- The kind of an edge is one of its route's two kinds. -/
theorem routeKind_produces {route : Route} {edge : BtnEdge} {kind : ButtonKind}
    (h : routeKind route edge = some kind) : Route.produces route kind := by
  cases edge with
  | noEdge => cases h
  | pressed => exact .inl h
  | released => exact .inr h

/-- A button stage's record is of a kind its button is routed to. -/
theorem btnRecord_kind {cfg : Config} {sample : Sample} {now : Word} {b : Block} {i : Btn} {r : Record}
    (h : btnRecord cfg sample now b i = some r) :
    ∃ k, Route.produces (cfg.route.get i) k ∧ recordType r = (Kind.button k).ordinal := by
  obtain ⟨k, hk, rfl⟩ := Option.map_eq_some_iff.1 h
  exact ⟨k, routeKind_produces hk, recordType_pack _ _ _ _⟩

/-- What a stage puts in its slot is of a kind the slot can hold. -/
theorem slotAfter_kind {cfg : Config} {sample : Sample} {now : Word} {b : Block} {k : Slot} {r : Record}
    (h : slotAfter cfg sample now b k = some r) : ∃ kind, SlotHolds cfg.route k kind ∧ recordType r = kind.ordinal := by
  cases k with
  | s0 =>
    obtain ⟨-, ⟨⟩⟩ := Option.ite_none_right_eq_some.1 h
    exact ⟨.mainRotate, rfl, recordType_pack _ _ _ _⟩
  | s1 =>
    obtain ⟨-, ⟨⟩⟩ := Option.ite_none_right_eq_some.1 h
    exact ⟨.subRotate, rfl, recordType_pack _ _ _ _⟩
  | s2 =>
    obtain ⟨kind, hp, ht⟩ := btnRecord_kind (i := .b0) h
    exact ⟨.button kind, ⟨kind, rfl, hp⟩, ht⟩
  | s3 =>
    obtain ⟨kind, hp, ht⟩ := btnRecord_kind (i := .b1) h
    exact ⟨.button kind, ⟨kind, rfl, hp⟩, ht⟩

/-- A slot that is valid after a tick shows what its stage put there in the run phase: a warm-up tick leaves no slot
valid. -/
theorem tickBlock_valid {cfg : Config} {sample : Sample} {now : Word} {b : Block} {k : Slot}
    (h : (tickBlock cfg sample now b).valid k = true) :
    slotAfter cfg sample now b k = some ((tickBlock cfg sample now b).evSlot.get k) := by
  rcases tickBlock_cases cfg sample now b with ⟨-, e⟩ | ⟨-, e⟩
  · have hsilent : (warmTick cfg sample now b).valid k = false := clearOutputs_valid _ k
    rw [e, hsilent] at h
    cases h
  · obtain ⟨-, -, -, -, -, -, hvalid, hslot, -, -⟩ := runTick_fields cfg sample now b
    rw [e, hvalid] at h
    obtain ⟨r, hr⟩ := Option.isSome_iff_exists.1 h
    rw [e, hslot, hr, Option.getD_some]

/-- Every record shown after a tick is of a kind its slot can hold (R69). -/
theorem exec_tick_slotHolds {sample : Sample} {now : Word} {s t : State} {k : Slot}
    (h : exec (.tick sample now) s = .next t) (hv : t.block.valid k = true) :
    ∃ kind, SlotHolds s.cfg.route k kind ∧ recordType (t.block.evSlot.get k) = kind.ordinal := by
  obtain rfl : s.setBlock (tickBlock s.cfg sample now s.block) = t := Host.Outcome.next.inj h
  exact slotAfter_kind (tickBlock_valid hv)

/-- No default route gives Cancel (R10). -/
theorem defaultRoute_not_produces_cancel (i : Btn) : ¬ Route.produces (Config.default.route.get i) .cancel := by
  cases i <;> simp [Route.produces, Config.default]

/-- So under the default routes no slot can hold a Cancel record. -/
theorem not_slotHolds_default_cancel (k : Slot) : ¬ SlotHolds Config.default.route k (.button .cancel) := by
  cases k with
  | s0 => exact Kind.noConfusion
  | s1 => exact Kind.noConfusion
  | s2 => rintro ⟨-, ⟨⟩, hp⟩; exact defaultRoute_not_produces_cancel .b0 hp
  | s3 => rintro ⟨-, ⟨⟩, hp⟩; exact defaultRoute_not_produces_cancel .b1 hp

/-- Settles O31: type 3 is the ordinal of Cancel alone, and no slot can hold Cancel under the default routes. -/
theorem cancelNeedsARoute : Obligations.CancelNeedsARoute := by
  unfold Obligations.CancelNeedsARoute
  intro sample now s t k hroute ht hv h3
  obtain ⟨kind, hholds, htype⟩ := exec_tick_slotHolds ht hv
  have hcancel : some kind = some (.button .cancel) := by
    rw [← Kind.ofOrdinal_ordinal kind, ← htype, h3]; rfl
  cases hcancel
  exact not_slotHolds_default_cancel k (hroute ▸ hholds)

/-! ### Elapsed time (R16) -/

theorem elapsed_toNat (now ts : Word) : (elapsed now ts).toNat = (now.toNat + 2 ^ 32 - ts.toNat) % 2 ^ 32 := by
  rw [elapsed, BitVec.toNat_sub]
  congr 1
  omega

theorem windowOpen_iff (debMs : Word) (q : QdecRegs) (now : Word) :
    windowOpen debMs q now = true ↔ q.accVld = true ∧ elapsed now q.accTs < debMs := by
  simp [windowOpen]

/-- Settles O35: each test's own condition, with `elapsed` read as a number. -/
theorem elapsedIsModular : Obligations.ElapsedIsModular := by
  unfold Obligations.ElapsedIsModular
  refine ⟨elapsed_toNat, fun debMs q now => ?_, fun coolMs r now => ?_, fun rateMs r now => ?_⟩
  · rw [windowOpen_iff, BitVec.lt_def, elapsed_toNat]
  · rw [cooldownPasses_iff, BitVec.le_def, elapsed_toNat]
  · rw [rlAllow_iff, BitVec.le_def, elapsed_toNat]

end Sys2Proof.Machine
end

section
/-! PROOFS. The state's statements (10_state.md): no rule reads the stored DT bits (R26), the warm-up tick alone counts
`WARM` (R22), the counters move only with an event (R23, R24). -/

namespace Sys2Proof.Machine

/-! ### The stored DT bits (R26, 40_quadrature_decoder.md R81) -/

section
variable (cfg : Config) (sample : Sample) (now : Word) (b : Block)

@[simp] theorem forgetDt_qdec (e : Chan) : b.forgetDt.qdec.get e = { b.qdec.get e with dt := false } := by
  cases e <;> rfl

/-- A poll reads CLK and the window's registers, and overwrites DT (R75). -/
@[simp] theorem qdecStep_forgetDt (debMs : Word) (c d : Bool) (q : QdecRegs) :
    qdecStep debMs c d now { q with dt := false } = qdecStep debMs c d now q := rfl

theorem qdecAfter_forgetDt (e : Chan) : qdecAfter cfg sample now b.forgetDt e = qdecAfter cfg sample now b e := by
  simp only [qdecAfter, forgetDt_qdec, qdecStep_forgetDt]

/-- The settling read overwrites DT too (R74). -/
theorem qdecWarm_forgetDt (e : Chan) : qdecWarm cfg sample now b.forgetDt e = qdecWarm cfg sample now b e := by
  simp only [qdecWarm, forgetDt_qdec, qdecAfter_forgetDt]
  rfl

/-- Whether a channel emits does not depend on its stored DT bit. -/
theorem emits_forgetDt (c : Chan) : Emits cfg c sample now b.forgetDt ↔ Emits cfg c sample now b := by
  unfold Emits Accepts
  rw [forgetDt_qdec]
  rfl

theorem mainAfter_forgetDt : mainAfter cfg sample now b.forgetDt = mainAfter cfg sample now b := by
  simp only [mainAfter, emits_forgetDt]
  rfl

theorem subAfter_forgetDt : subAfter cfg sample now b.forgetDt = subAfter cfg sample now b := by
  simp only [subAfter, subBase, emits_forgetDt]
  rfl

theorem slotAfter_forgetDt (k : Slot) : slotAfter cfg sample now b.forgetDt k = slotAfter cfg sample now b k := by
  cases k <;> simp only [slotAfter, btnRecord, emits_forgetDt, mainAfter_forgetDt, subAfter_forgetDt] <;> rfl

theorem rlAfter_forgetDt (c : Chan) : rlAfter cfg sample now b.forgetDt c = rlAfter cfg sample now b c := by
  simp only [rlAfter, emits_forgetDt]
  rfl

/-- The run tick's result, the new DT bits included, does not depend on the stored ones. -/
theorem runTick_forgetDt : runTick cfg sample now b.forgetDt = runTick cfg sample now b := by
  obtain ⟨hw, hm, hs, hq, hr, hb, hv, he, ht, hn⟩ := runTick_fields cfg sample now b
  obtain ⟨hw', hm', hs', hq', hr', hb', hv', he', ht', hn'⟩ := runTick_fields cfg sample now b.forgetDt
  apply Block.eq_of_fields
  · exact hw'.trans hw.symm
  · rw [hm', hm, mainAfter_forgetDt]
  · rw [hs', hs, subAfter_forgetDt]
  · intro e; rw [hq', hq, qdecAfter_forgetDt]
  · intro c; rw [hr', hr, rlAfter_forgetDt]
  · intro i; rw [hb', hb]; rfl
  · intro k; rw [hv', hv, slotAfter_forgetDt]
  · intro k; rw [he', he, slotAfter_forgetDt]
  · rw [ht', ht]
  · rw [hn', hn]

/-- Nor does the warm-up tick's. -/
theorem warmTick_forgetDt : warmTick cfg sample now b.forgetDt = warmTick cfg sample now b := by
  obtain ⟨hw, hm, hs, hq, hr, hb, hv, he, ht, hn⟩ := warmTick_fields cfg sample now b
  obtain ⟨hw', hm', hs', hq', hr', hb', hv', he', ht', hn'⟩ := warmTick_fields cfg sample now b.forgetDt
  apply Block.eq_of_fields
  · exact hw'.trans hw.symm
  · exact hm'.trans hm.symm
  · exact hs'.trans hs.symm
  · intro e; rw [hq', hq, qdecWarm_forgetDt]
  · intro c; rw [hr', hr]; rfl
  · intro i; rw [hb', hb]
  · intro k; rw [Block.valid, hv', ← hv]; rfl
  · intro k; rw [he', he]
  · rw [ht', ht]
  · rw [hn', hn]

theorem tickBlock_forgetDt : tickBlock cfg sample now b.forgetDt = tickBlock cfg sample now b := by
  unfold tickBlock
  rw [warmTick_forgetDt, runTick_forgetDt]
  rfl

end

/-- An edge commutes with forgetting the DT bits: `RESET` and a tick do not look at them, an idle edge keeps them. -/
theorem edgeBlock_forgetDt (cfg : Config) (e : Edge) (b : Block) :
    (edgeBlock cfg e b.forgetDt).forgetDt = (edgeBlock cfg e b).forgetDt := by
  unfold edgeBlock
  split_ifs
  · rfl
  · rw [tickBlock_forgetDt]
  · rfl

/-- Blocks that differ in the DT bits only still do after the same edge. -/
theorem edgeBlock_sameButDt {cfg : Config} {b b' : Block} (e : Edge) (h : b'.forgetDt = b.forgetDt) :
    (edgeBlock cfg e b').forgetDt = (edgeBlock cfg e b).forgetDt := by
  rw [← edgeBlock_forgetDt, h, edgeBlock_forgetDt]

/-- And so after the same edges. -/
theorem edgesBlock_sameButDt {cfg : Config} {b b' : Block} (es : List Edge) (h : b'.forgetDt = b.forgetDt) :
    (edgesBlock cfg es b').forgetDt = (edgesBlock cfg es b).forgetDt := by
  induction es generalizing b b' with
  | nil => exact h
  | cons e es ih => exact ih (edgeBlock_sameButDt e h)

/-- Settles O47: agreement up to the DT bits is kept by every edge, by induction on the edges. -/
theorem storedDtIsUnobservable : Obligations.StoredDtIsUnobservable := by
  unfold Obligations.StoredDtIsUnobservable
  intro s s' t t' es ha hcfg hdt hrun hrun'
  obtain rfl := (runsTo_iff es ha).1 hrun
  obtain rfl := (runsTo_iff es (hcfg ▸ ha)).1 hrun'
  rw [State.setBlock_block, State.setBlock_block, hcfg]
  exact edgesBlock_sameButDt es hdt

/-! ### What the other instructions keep (43_event_router.md R101, R110) -/

/-- An instruction that is no `RESET` and no `TICK` writes output registers only. -/
theorem exec_writes_outputs {i : Instr} {s t : State} (h : exec i s = .next t) (hreset : ∀ x, i ≠ .reset x)
    (htick : ∀ sample now, i ≠ .tick sample now) :
    t.block = clearOutputs s.block ∨ ∃ k r, t.block = emit k r s.block := by
  cases i with
  | reset x => exact absurd rfl (hreset x)
  | tick sample now => exact absurd rfl (htick sample now)
  | idle => cases h; exact .inl rfl
  | _ => cases h; exact .inr ⟨_, _, State.setBlock_block _ _⟩

/-- So it keeps `WARM` and the position counters. -/
theorem exec_keeps_counters {i : Instr} {s t : State} (h : exec i s = .next t) (hreset : ∀ x, i ≠ .reset x)
    (htick : ∀ sample now, i ≠ .tick sample now) :
    t.block.warm = s.block.warm ∧ t.block.mainIdx = s.block.mainIdx ∧ t.block.subIdx = s.block.subIdx := by
  rcases exec_writes_outputs h hreset htick with hb | ⟨k, r, hb⟩ <;> simp [hb]

/-! ### The warm-up count (R22) -/

theorem tickBlock_warm (cfg : Config) (sample : Sample) (now : Word) (b : Block) :
    (tickBlock cfg sample now b).warm = if b.warm < cfg.warm then b.warm + 1 else b.warm := by
  rcases tickBlock_cases cfg sample now b with ⟨h, e⟩ | ⟨h, e⟩
  · rw [e, if_pos h]; exact (warmTick_fields cfg sample now b).1
  · rw [e, if_neg h]; exact (runTick_fields cfg sample now b).1

/-- Settles O20: a tick counts by 1 below `P_WARM`, `RESET` clears, the other instructions keep `WARM`. -/
theorem warmCountsTheWarmUpTicks : Obligations.WarmCountsTheWarmUpTicks := by
  unfold Obligations.WarmCountsTheWarmUpTicks
  intro i s
  obtain ⟨b, h⟩ := exec_next i s
  refine ⟨_, h, ?_⟩
  cases i with
  | reset x => cases h; exact ⟨rfl, fun _ => Nat.zero_le _⟩
  | tick sample now =>
    obtain rfl : tickBlock s.cfg sample now s.block = b := congrArg State.block (Host.Outcome.next.inj h)
    rw [State.setBlock_block, tickBlock_warm]
    by_cases hw : s.block.warm < s.cfg.warm
    · simp only [if_pos hw]
      constructor
      · bv_omega
      · intro; bv_omega
    · simp only [if_neg hw, true_and, imp_self]
  | _ =>
    obtain ⟨hw, -, -⟩ := exec_keeps_counters h nofun nofun
    exact ⟨congrArg BitVec.toNat hw, fun hle => hw ▸ hle⟩

/-! ### The position counters (R23, R24) -/

/-- A tick that moves `MAIN_IDX` shows a record of the new value in slot 0 (R105). -/
theorem tickBlock_mainIdx_moves {cfg : Config} {sample : Sample} {now : Word} {b : Block}
    (h : (tickBlock cfg sample now b).mainIdx ≠ b.mainIdx) :
    (tickBlock cfg sample now b).valid .s0 = true ∧
      recordMain (tickBlock cfg sample now b).evSlot.s0 = (tickBlock cfg sample now b).mainIdx := by
  rcases tickBlock_cases cfg sample now b with ⟨-, e⟩ | ⟨-, e⟩ <;> rw [e] at h ⊢
  · exact absurd (warmTick_fields cfg sample now b).2.1 h
  · obtain ⟨-, hmain, -, -, -, -, hvalid, hslot, -, -⟩ := runTick_fields cfg sample now b
    by_cases hm : Emits cfg .main sample now b
    · rw [hvalid, ← PerSlot.get_s0, hslot, hmain, slotAfter, if_pos hm]
      exact ⟨rfl, recordMain_pack _ _ _ _⟩
    · rw [hmain, mainAfter, if_neg hm] at h
      exact absurd rfl h

/-- A tick that moves `SUB_IDX` shows a record of either channel (R106, R107). -/
theorem tickBlock_subIdx_moves {cfg : Config} {sample : Sample} {now : Word} {b : Block}
    (h : (tickBlock cfg sample now b).subIdx ≠ b.subIdx) :
    (tickBlock cfg sample now b).valid .s0 = true ∨ (tickBlock cfg sample now b).valid .s1 = true := by
  rcases tickBlock_cases cfg sample now b with ⟨-, e⟩ | ⟨-, e⟩ <;> rw [e] at h ⊢
  · exact absurd (warmTick_fields cfg sample now b).2.2.1 h
  · obtain ⟨-, -, hsub, -, -, -, hvalid, -, -, -⟩ := runTick_fields cfg sample now b
    rw [hvalid, hvalid]
    by_cases hm : Emits cfg .main sample now b
    · left; rw [slotAfter, if_pos hm]; rfl
    · by_cases hs : Emits cfg .sub sample now b
      · right; rw [slotAfter, if_pos hs]; rfl
      · rw [hsub, subAfter, subBase, if_neg hs, if_neg hm] at h
        exact absurd rfl h

/-- Settles O29: of the instructions but `RESET`, only a tick moves a counter, and then a rotation slot is valid. -/
theorem countersMoveOnlyWithAnEvent : Obligations.CountersMoveOnlyWithAnEvent := by
  unfold Obligations.CountersMoveOnlyWithAnEvent
  intro i s t h hreset
  cases i with
  | reset x => exact absurd rfl (hreset x)
  | tick sample now =>
    obtain rfl : s.setBlock (tickBlock s.cfg sample now s.block) = t := Host.Outcome.next.inj h
    exact ⟨tickBlock_mainIdx_moves, tickBlock_subIdx_moves⟩
  | _ =>
    obtain ⟨-, hmain, hsub⟩ := exec_keeps_counters h nofun nofun
    exact ⟨fun hne => absurd hmain hne, fun hne => absurd hsub hne⟩

end Sys2Proof.Machine
end

section
/-! PROOFS. The memory family's statements (20_memory.md): a record's bytes (R47), the output registers feed nothing back
(R51), the order of delivery (R52, R53). -/

namespace Sys2Proof.Machine

/-! ### A record as seven bytes (R47) -/

/-- The first three bytes are the fields before the timestamp, the others the timestamp's own bytes (R62). -/
theorem recordBytes_eq_fields (r : Record) : recordBytes r =
    [recordType r, recordMain r, recordSub r, (recordTime r).extractLsb' 0 8, (recordTime r).extractLsb' 8 8,
      (recordTime r).extractLsb' 16 8, (recordTime r).extractLsb' 24 8] := by
  have htime (start : Nat) (h : start + 8 ≤ 32) :
      (recordTime r).extractLsb' start 8 = r.extractLsb' (24 + start) 8 := by
    apply BitVec.eq_of_getLsbD_eq
    intro i hi
    have hlt : start + i < 32 := by omega
    simp [recordTime, hi, hlt, Nat.add_assoc]
  rw [htime 0 (by decide), htime 8 (by decide), htime 16 (by decide), htime 24 (by decide)]
  rfl

theorem recordBytes_getElem? (r : Record) {i : Nat} (hi : i < 7) :
    (recordBytes r)[i]? = some (r.extractLsb' (8 * i) 8) := by
  have hmap : recordBytes r = (List.range 7).map fun j => r.extractLsb' (8 * j) 8 := rfl
  rw [hmap, List.getElem?_map, List.getElem?_range hi, Option.map_some]

/-- A cut above the lowest byte does not see that byte. -/
theorem extractLsb'_append_byte {n : Nat} (x : BitVec n) (c : Byte) {start : Nat} (h : 8 ≤ start) :
    (x ++ c).extractLsb' start 8 = x.extractLsb' (start - 8) 8 := BitVec.extractLsb'_append_eq_of_le h

/-- The cut at 0 is that byte. -/
theorem extractLsb'_append_byte_zero {n : Nat} (x : BitVec n) (c : Byte) : (x ++ c).extractLsb' 0 8 = c :=
  BitVec.extractLsb'_append_eq_right

/-- A cut and the byte right below it join to one cut. -/
theorem extractLsb'_join_byte {n : Nat} (x : BitVec n) (start len : Nat) :
    x.extractLsb' (start + 8) len ++ x.extractLsb' start 8 = x.extractLsb' start (len + 8) :=
  BitVec.extractLsb'_append_extractLsb'_eq_extractLsb' rfl

/-- Adjacent bytes join, from the most significant down, to the whole record. -/
theorem recordOfBytes_recordBytes (r : Record) : recordOfBytes (recordBytes r) = .ok r := by
  simp [recordBytes, recordOfBytes, extractLsb'_join_byte]

/-- Only seven bytes make a record, and each of them is cut out of it again at its own place. -/
theorem recordBytes_of_recordOfBytes {bytes : List Byte} {r : Record} (h : recordOfBytes bytes = .ok r) :
    recordBytes r = bytes := by
  unfold recordOfBytes at h
  split at h
  · cases h
    simp [recordBytes, extractLsb'_append_byte, extractLsb'_append_byte_zero]
  · cases h

/-- Settles O7: the bytes are the fields in order, and joining and cutting undo each other. -/
theorem recordBytesAreLittleEndian : Obligations.RecordBytesAreLittleEndian := by
  unfold Obligations.RecordBytesAreLittleEndian
  refine ⟨fun ty m u t => ?_, fun r i hi => recordBytes_getElem? r hi,
    fun r => ⟨rfl, recordOfBytes_recordBytes r⟩, fun bytes r h => recordBytes_of_recordOfBytes h⟩
  rw [recordBytes_eq_fields, recordType_pack, recordMain_pack, recordSub_pack, recordTime_pack]

/-! ### The output registers (R51, 10_state.md R35 to R37) -/

section
variable (cfg : Config) (sample : Sample) (now : Word) (b : Block)

/-- A run tick writes every output register and reads none: each register after it is the same function of the others. -/
theorem runTick_clearOutputs : runTick cfg sample now (clearOutputs b) = runTick cfg sample now b := by
  obtain ⟨hw, hm, hs, hq, hr, hb, hv, he, ht, hn⟩ := runTick_fields cfg sample now b
  obtain ⟨hw', hm', hs', hq', hr', hb', hv', he', ht', hn'⟩ := runTick_fields cfg sample now (clearOutputs b)
  have hslot (k : Slot) : slotAfter cfg sample now (clearOutputs b) k = slotAfter cfg sample now b k := by
    cases k <;> rfl
  apply Block.eq_of_fields
  · exact hw'.trans hw.symm
  · exact hm'.trans hm.symm
  · exact hs'.trans hs.symm
  · exact fun e => (hq' e).trans (hq e).symm
  · exact fun c => (hr' c).trans (hr c).symm
  · exact fun i => (hb' i).trans (hb i).symm
  · intro k; rw [hv', hv, hslot]
  · intro k; rw [he', he, hslot]
  · rw [ht', ht]
  · rw [hn', hn]

/-- A decoder's part of a warm-up tick neither reads nor writes an output register. -/
theorem warmDecoder_clearOutputs (e : Chan) :
    warmDecoder cfg e sample now (clearOutputs b) = clearOutputs (warmDecoder cfg e sample now b) := by
  unfold warmDecoder
  rw [clearOutputs_warm]
  split <;> rfl

/-- A warm-up tick leaves the output registers empty whatever they held. -/
theorem warmTick_clearOutputs : warmTick cfg sample now (clearOutputs b) = warmTick cfg sample now b := by
  simp only [warmTick, warmDecoder_clearOutputs]
  rfl

theorem tickBlock_clearOutputs : tickBlock cfg sample now (clearOutputs b) = tickBlock cfg sample now b := by
  unfold tickBlock
  rw [warmTick_clearOutputs, runTick_clearOutputs, clearOutputs_warm]

end

/-- Settles O18: blocks that differ in their output registers only are equal once these are cleared, and no operation
tells a block from its cleared one. -/
theorem outputsHaveNoFeedback : Obligations.OutputsHaveNoFeedback := by
  unfold Obligations.OutputsHaveNoFeedback
  rintro s v slots strobe n i (rfl | ⟨x, rfl⟩ | ⟨sample, now, rfl⟩)
  · rfl
  · rfl
  · have htick := tickBlock_clearOutputs s.cfg sample now { s.block with
      evValid := v, evSlot := slots, lcTick := strobe, lcNow := n }
    exact congrArg (fun b => Host.Outcome.next (s.setBlock b))
      (htick.symm.trans (tickBlock_clearOutputs s.cfg sample now s.block))

/-! ### The deliveries of a cycle (R52, R53) -/

theorem map_filter_cons {α β : Type} (p : α → Bool) (f : α → β) (x : α) (xs : List α) :
    ((x :: xs).filter p).map f = (if p x then [f x] else []) ++ (xs.filter p).map f := by
  rw [List.filter_cons]
  split <;> rfl

/-- With the strobe asserted the acts of a cycle are the valid slots in ascending order, then the lifecycle tick. -/
theorem deliveries_of_lcTick {b : Block} (h : b.lcTick = true) :
    b.deliveries =
      (if b.valid .s0 then [.deliver b.evSlot.s0] else []) ++ (if b.valid .s1 then [.deliver b.evSlot.s1] else []) ++
      (if b.valid .s2 then [.deliver b.evSlot.s2] else []) ++ (if b.valid .s3 then [.deliver b.evSlot.s3] else []) ++
      [.tickLifecycle b.lcNow] := by
  simp [Block.deliveries, Block.events, Block.lifecycle, Slot.all, map_filter_cons,
    apply_ite (List.map Delivery.deliver), h]

/-- Whatever a stage puts in its slot is a record of the tick's time and of `MAIN_IDX` after stage 1 (R109). -/
theorem slotAfter_pack {cfg : Config} {sample : Sample} {now : Word} {b : Block} {k : Slot} {r : Record}
    (h : slotAfter cfg sample now b k = some r) :
    ∃ ty u, packRecord ty (mainAfter cfg sample now b) u now = r := by
  cases k with
  | s0 =>
    obtain ⟨-, hr⟩ := Option.ite_none_right_eq_some.1 h
    exact ⟨_, _, Option.some.inj hr⟩
  | s1 =>
    obtain ⟨-, hr⟩ := Option.ite_none_right_eq_some.1 h
    exact ⟨_, _, Option.some.inj hr⟩
  | s2 =>
    obtain ⟨_, -, hr⟩ := Option.map_eq_some_iff.1 h
    exact ⟨_, _, hr⟩
  | s3 =>
    obtain ⟨_, -, hr⟩ := Option.map_eq_some_iff.1 h
    exact ⟨_, _, hr⟩

/-- Settles O28: a run tick asserts the strobe at its own time, and its valid slots hold the records of its stages. -/
theorem deliveriesAreOrdered : Obligations.DeliveriesAreOrdered := by
  unfold Obligations.DeliveriesAreOrdered
  intro sample now s hrun
  obtain ⟨-, hmain, -, -, -, -, -, -, hstrobe, hnow⟩ := runTick_fields s.cfg sample now s.block
  have htick : tickBlock s.cfg sample now s.block = runTick s.cfg sample now s.block := if_neg hrun
  refine ⟨_, exec_tick_run hrun, ?_, fun k hv => ?_⟩
  · rw [State.setBlock_block, deliveries_of_lcTick hstrobe, hnow]
  · rw [State.setBlock_block, ← htick] at hv ⊢
    obtain ⟨ty, u, hr⟩ := slotAfter_pack (tickBlock_valid hv)
    rw [← hr, htick, hmain]
    exact ⟨recordTime_pack _ _ _ _, recordMain_pack _ _ _ _⟩

end Sys2Proof.Machine
end

section
/-! PROOFS. The encoding family's statements (30_encoding.md): the control word (R59), a record's fields (R62, R63), the
reserved types (R64), the kinds of each slot (R69). -/

namespace Sys2Proof

/-! ### The control word (R59) -/

/-- With `rst` = 1 the tick bit alone is left to read. -/
theorem decodeEdge_rst {e : Edge} (h : e.ctl.getLsbD 1 = true) : decodeEdge e = .reset (e.ctl.getLsbD 0) := by
  rw [decodeEdge, h]

theorem decodeEdge_tick {e : Edge} (h : e.ctl = 0b01) : decodeEdge e = .tick e.sample e.nowMs := by
  rw [decodeEdge, h]; rfl

theorem decodeEdge_idle {e : Edge} (h : e.ctl = 0b00) : decodeEdge e = .idle := by
  rw [decodeEdge, h]; rfl

/-! ### Kinds and slots (R63, R64, R69) -/

/-- No kind has a reserved type. -/
theorem Kind.ordinal_lt_six (kind : Kind) : kind.ordinal < 6 := by
  have hne : ¬ 6 ≤ kind.ordinal := by
    rw [← Kind.ofOrdinal_eq_none_iff, Kind.ofOrdinal_ordinal]
    exact Option.some_ne_none kind
  exact BitVec.not_le.1 hne

/-- The types 2 to 5 are the button kinds. -/
theorem Kind.ofOrdinal_button {ty : Byte} (h2 : 2 ≤ ty) (h5 : ty ≤ 5) :
    ∃ kind, Kind.ofOrdinal ty = some (.button kind) := by
  have hne : Kind.ofOrdinal ty ≠ none := by
    rw [ne_eq, Kind.ofOrdinal_eq_none_iff]
    bv_omega
  obtain ⟨kind, hkind⟩ := Option.ne_none_iff_exists'.1 hne
  have hord := Kind.ordinal_of_ofOrdinal hkind
  cases kind with
  | mainRotate => rw [← hord] at h2; exact absurd h2 (by decide)
  | subRotate => rw [← hord] at h2; exact absurd h2 (by decide)
  | button kind => exact ⟨kind, hkind⟩

/-- The slots a kind never stands in, whatever the routes: a rotation stands in its channel's slot, a button kind in a
button's slot. -/
def Kind.Misplaced : Kind → Slot → Prop
  | .mainRotate, k => k ≠ .s0
  | .subRotate, k => k ≠ .s1
  | .button _, k => k.btn? = none

/-- A record of reserved type decodes to nothing, in whatever slot it stands. -/
theorem decode_record_reserved (k : Slot) {r : Record} (h : 6 ≤ recordType r) :
    decode (.record k r) = .error (.reservedType (recordType r)) := by
  rw [decode, decodeRecord, (Kind.ofOrdinal_eq_none_iff _).2 h]

/-- A record of a kind decodes to nothing in a slot that never holds this kind. -/
theorem decode_record_misplaced {k : Slot} {r : Record} {kind : Kind}
    (hkind : Kind.ofOrdinal (recordType r) = some kind) (hslot : kind.Misplaced k) :
    decode (.record k r) = .error (.kindNotOfSlot (recordType r) k) := by
  rw [decode, decodeRecord, hkind]
  cases kind with
  | mainRotate => exact if_neg hslot
  | subRotate => exact if_neg hslot
  | button kind =>
    have hbtn : k.btn? = none := hslot
    simp only [hbtn]

/-! ### A record as a number (R62) -/

/-- The parts of an appended word are digits: the high part counts by `2 ^ n`. -/
theorem toNat_append_eq_add {m n : Nat} (x : BitVec m) (y : BitVec n) :
    (x ++ y).toNat = x.toNat * 2 ^ n + y.toNat := by
  rw [BitVec.toNat_append, ← Nat.shiftLeft_add_eq_or_of_lt y.isLt, Nat.shiftLeft_eq]

theorem packRecord_toNat (ty m u : Byte) (t : Word) : (packRecord ty m u t).toNat =
    ty.toNat + m.toNat * 2 ^ 8 + u.toNat * 2 ^ 16 + t.toNat * 2 ^ 24 := by
  have hdigits : (packRecord ty m u t).toNat =
      ((t.toNat * 2 ^ 8 + u.toNat) * 2 ^ 8 + m.toNat) * 2 ^ 8 + ty.toNat := by
    rw [packRecord, toNat_append_eq_add, toNat_append_eq_add, toNat_append_eq_add]
  omega

namespace Machine

/-! ### Steps on a control word and on a refused word -/

/-- A word that decodes to nothing is refused by its own name. -/
theorem step_decode_error {s : State} {x : Stimulus} {rest : List Stimulus} {e : DecodeError}
    (ha : s.cfg.accepted = true) (hs : s.stimulus = x :: rest) (hd : decode x = .error e) :
    step s = .refused (refusalOf e) := by
  simp only [step, ha, fetch, hs, hd, if_true]

/-- Settles O11: each control word has its own operation, and `RESET` does not read the tick bit it keeps. -/
theorem controlWordSelectsTheOperation : Obligations.ControlWordSelectsTheOperation := by
  unfold Obligations.ControlWordSelectsTheOperation
  intro s e rest ha hs
  rw [step_edge ha hs]
  refine ⟨fun hctl => ?_, fun hctl => ?_, fun hctl => ?_⟩
  · have hrst : e.ctl.getLsbD 1 = true := by rcases hctl with h | h <;> rw [h] <;> rfl
    rw [decodeEdge_rst hrst]
    rfl
  · rw [decodeEdge_tick hctl]
    rfl
  · rw [decodeEdge_idle hctl]
    rfl

/-- Settles O6: each of the three cases names a kind that never stands in that slot. -/
theorem misplacedRecordsAreRefused : Obligations.MisplacedRecordsAreRefused := by
  unfold Obligations.MisplacedRecordsAreRefused
  intro k r s rest ha hs hcases
  have hmisplaced : ∃ kind, Kind.ofOrdinal (recordType r) = some kind ∧ kind.Misplaced k := by
    rcases hcases with ⟨h0, hk⟩ | ⟨h1, hk⟩ | ⟨h2, h5, hk⟩
    · exact ⟨.mainRotate, by rw [h0]; rfl, hk⟩
    · exact ⟨.subRotate, by rw [h1]; rfl, hk⟩
    · obtain ⟨kind, hkind⟩ := Kind.ofOrdinal_button h2 h5
      refine ⟨.button kind, hkind, ?_⟩
      rcases hk with rfl | rfl <;> rfl
  obtain ⟨kind, hkind, hslot⟩ := hmisplaced
  exact step_decode_error ha hs (decode_record_misplaced hkind hslot)

/-! ### The records of a tick (R64, R69, R106, R109) -/

/-- Settles O4: a reserved type is the ordinal of no kind, so no decoding answers one and no stage packs one. -/
theorem reservedRecordTypesAreRefusedAndNeverProduced :
    Obligations.ReservedRecordTypesAreRefusedAndNeverProduced := by
  unfold Obligations.ReservedRecordTypesAreRefusedAndNeverProduced
  constructor
  · intro k r h6
    have hd := decode_record_reserved k h6
    exact ⟨hd, fun s rest ha hs => step_decode_error ha hs hd⟩
  · intro sample now s t k ht hv
    obtain ⟨kind, -, htype⟩ := exec_tick_slotHolds ht hv
    rw [htype]
    exact kind.ordinal_lt_six

/-- Settles O5: the kinds that each slot can hold, read for the four slots. -/
theorem slotsHoldTheKindsOfTheirSource : Obligations.SlotsHoldTheKindsOfTheirSource := by
  unfold Obligations.SlotsHoldTheKindsOfTheirSource
  intro sample now s t ht
  refine ⟨fun hv => ?_, fun hv => ?_, fun hv => ?_, fun hv => ?_⟩
  · obtain ⟨-, rfl, htype⟩ := exec_tick_slotHolds ht hv
    exact htype
  · obtain ⟨-, rfl, htype⟩ := exec_tick_slotHolds ht hv
    exact htype
  · obtain ⟨-, ⟨kind, rfl, hroute⟩, htype⟩ := exec_tick_slotHolds ht hv
    exact ⟨kind, hroute, htype⟩
  · obtain ⟨-, ⟨kind, rfl, hroute⟩, htype⟩ := exec_tick_slotHolds ht hv
    exact ⟨kind, hroute, htype⟩

theorem makeEvent_fields (kind : Kind) (now : Word) (b : Block) :
    recordType (makeEvent kind now b) = kind.ordinal ∧ recordMain (makeEvent kind now b) = b.mainIdx ∧
    recordSub (makeEvent kind now b) = b.subIdx ∧ recordTime (makeEvent kind now b) = now :=
  ⟨recordType_pack _ _ _ _, recordMain_pack _ _ _ _, recordSub_pack _ _ _ _, recordTime_pack _ _ _ _⟩

/-- A MainRotate record is built after its step has cleared `SUB_IDX` (R106). -/
theorem slotAfter_main_recordSub {cfg : Config} {sample : Sample} {now : Word} {b : Block} {r : Record}
    (h : slotAfter cfg sample now b .s0 = some r) : recordSub r = 0 := by
  obtain ⟨-, ⟨⟩⟩ := Option.ite_none_right_eq_some.1 h
  exact recordSub_pack _ _ _ _

/-- Settles O8: the number is the fields as digits, the fields are what was packed, and slot 0 shows stage 1's record. -/
theorem recordFieldsAndNumber : Obligations.RecordFieldsAndNumber := by
  unfold Obligations.RecordFieldsAndNumber
  refine ⟨⟨rfl, rfl, rfl, rfl, rfl, rfl⟩, packRecord_toNat, makeEvent_fields, fun sample now s t ht hv => ?_⟩
  obtain rfl : s.setBlock (tickBlock s.cfg sample now s.block) = t := Host.Outcome.next.inj ht
  exact slotAfter_main_recordSub (tickBlock_valid hv)

end Machine

end Sys2Proof
end

section
/-! PROOFS. The decoder's statements (40_quadrature_decoder.md): a step needs a CLK fall and takes its direction from DT
(R77, R78), the window opens at an accepted transition only (R76, R79), it consumes the falls inside it (R80), and so it
spaces the accepted transitions. -/

namespace Sys2Proof.Machine

/-! ### One poll (R75) -/

@[simp] theorem stepValue_direction (d : Bool) :
    stepValue (if d then .plus else .minus) = if d then 1 else -1 := by
  cases d <;> rfl

theorem direction_ne_zero (d : Bool) : (if d then QStep.plus else .minus) ≠ .zero := by
  cases d <;> decide

theorem stepValue_eq_zero_iff (x : QStep) : stepValue x = 0 ↔ x = .zero := by
  cases x <;> decide

section
variable {debMs : Word} {q : QdecRegs} {now : Word}

/-- Inside the window a poll only stores the levels (R76, R80). -/
theorem qdecStep_of_windowOpen (c d : Bool) (hw : windowOpen debMs q now = true) :
    qdecStep debMs c d now q = (.zero, { q with clk := c, dt := d }) := by
  rw [qdecStep, if_pos hw]

/-- Outside it every CLK fall is accepted (R77 to R79). -/
theorem qdecStep_of_fall (d : Bool) (hw : windowOpen debMs q now = false) (hq : q.clk = true) :
    qdecStep debMs false d now q = (if d then .plus else .minus, ⟨false, d, now, true⟩) :=
  qdecStep_accept d ((windowOpen_eq_false_iff debMs q now).1 hw) hq

/-- With CLK low before the poll there is no fall (R77). -/
theorem qdecStep_of_clk_low (c d : Bool) (hq : q.clk = false) :
    qdecStep debMs c d now q = (.zero, { q with clk := c, dt := d }) :=
  qdecStep_reject d fun ⟨_, hhigh, _⟩ => Bool.false_ne_true (hq ▸ hhigh)

/-- A nonzero step is a CLK fall outside the window. -/
theorem fall_of_qdecStep_ne_zero {c d : Bool} (h : (qdecStep debMs c d now q).1 ≠ .zero) :
    windowOpen debMs q now = false ∧ q.clk = true ∧ c = false := by
  rcases qdecStep_cases debMs c d now q with ⟨hw, hq, hc, -⟩ | ⟨-, e⟩
  · exact ⟨(windowOpen_eq_false_iff debMs q now).2 hw, hq, hc⟩
  · exact absurd (congrArg Prod.fst e) h

/-- A poll without a step writes the levels only (R79, R80). -/
theorem qdecStep_snd_of_zero {c d : Bool} (h : (qdecStep debMs c d now q).1 = .zero) :
    (qdecStep debMs c d now q).2 = { q with clk := c, dt := d } := by
  rcases qdecStep_cases debMs c d now q with ⟨-, -, -, e⟩ | ⟨-, e⟩
  · rw [e] at h
    exact absurd h (direction_ne_zero d)
  · rw [e]

end

/-- Settles O38: the CLK level that the second poll compares with is the one the first poll stored. -/
theorem stepOnlyOnClkFallWithDirectionByDt : Obligations.StepOnlyOnClkFallWithDirectionByDt := by
  unfold Obligations.StepOnlyOnClkFallWithDirectionByDt
  intro debMs q c1 d1 c2 d2 n1 n2
  obtain ⟨hclk, -⟩ := qdecStep_levels debMs c1 d1 n1 q
  constructor
  · intro hstep
    obtain ⟨-, hhigh, hlow⟩ := fall_of_qdecStep_ne_zero hstep
    exact ⟨hclk ▸ hhigh, hlow⟩
  · rintro hw rfl rfl
    rw [qdecStep_of_fall d2 hw hclk, stepValue_direction]

/-- Settles O39: a poll inside the window, an accepting poll and a poll without a step, each by its own equation. -/
theorem windowOpensAtAnAcceptedTransition : Obligations.WindowOpensAtAnAcceptedTransition := by
  unfold Obligations.WindowOpensAtAnAcceptedTransition
  intro debMs q c d now
  refine ⟨windowOpen_iff debMs q now, fun hw => ?_, fun hw hq hc => ?_, fun hzero => ?_⟩
  · obtain ⟨hvld, -⟩ := (windowOpen_iff debMs q now).1 hw
    rw [qdecStep_of_windowOpen c d hw, hvld]
    exact ⟨rfl, rfl⟩
  · subst hc
    rw [qdecStep_of_fall d hw hq]
    exact ⟨stepValue_direction d, rfl, fun now' => by simp [windowOpen_iff]⟩
  · rw [qdecStep_snd_of_zero ((stepValue_eq_zero_iff _).1 hzero)]
    exact ⟨rfl, rfl⟩

/-! ### Lists of polls -/

section
variable {debMs : Word} {q : QdecRegs} {p : DecoderPoll}

theorem acceptedTimes_cons_of_zero (rest : List DecoderPoll) (h : (qdecStep debMs p.clk p.dt p.now q).1 = .zero) :
    acceptedTimes debMs q (p :: rest) = acceptedTimes debMs (qdecStep debMs p.clk p.dt p.now q).2 rest :=
  if_pos h

theorem acceptedTimes_cons_of_ne_zero (rest : List DecoderPoll) (h : (qdecStep debMs p.clk p.dt p.now q).1 ≠ .zero) :
    acceptedTimes debMs q (p :: rest) = p.now :: acceptedTimes debMs (qdecStep debMs p.clk p.dt p.now q).2 rest :=
  if_neg h

/-- A poll that only stores the levels leaves the rest of the list to those registers. -/
theorem polls_cons_of_reject (rest : List DecoderPoll)
    (h : qdecStep debMs p.clk p.dt p.now q = (.zero, { q with clk := p.clk, dt := p.dt })) :
    acceptedTimes debMs q (p :: rest) = acceptedTimes debMs { q with clk := p.clk, dt := p.dt } rest ∧
    decoderAfter debMs q (p :: rest) = decoderAfter debMs { q with clk := p.clk, dt := p.dt } rest := by
  rw [acceptedTimes_cons_of_zero rest (congrArg Prod.fst h), decoderAfter, h]
  exact ⟨rfl, rfl⟩

end

/-- While CLK stays low nothing is accepted, by induction on the polls. -/
theorem polls_of_clk_low (debMs : Word) (q : QdecRegs) (lows : List DecoderPoll) (hq : q.clk = false)
    (hlows : ∀ x ∈ lows, x.clk = false) :
    acceptedTimes debMs q lows = [] ∧ (decoderAfter debMs q lows).accTs = q.accTs := by
  induction lows generalizing q with
  | nil => exact ⟨rfl, rfl⟩
  | cons p rest ih =>
    obtain ⟨hp, hrest⟩ := List.forall_mem_cons.1 hlows
    obtain ⟨htimes, hregs⟩ := polls_cons_of_reject rest (qdecStep_of_clk_low (debMs := debMs) p.clk p.dt hq)
    rw [htimes, hregs]
    exact ih { q with clk := p.clk, dt := p.dt } hp hrest

/-- Settles O40: the poll inside the window stores CLK low, so the low polls after it see no fall. -/
theorem consumedFallIsNeverReported : Obligations.ConsumedFallIsNeverReported := by
  unfold Obligations.ConsumedFallIsNeverReported
  intro debMs q p lows hw hp hlows
  obtain ⟨htimes, hregs⟩ := polls_cons_of_reject lows (qdecStep_of_windowOpen p.clk p.dt hw)
  rw [htimes, hregs]
  exact polls_of_clk_low debMs { q with clk := p.clk, dt := p.dt } lows hp hlows

/-! ### The spacing of the accepted transitions (R76, R79) -/

/-- The last accepted time that the registers hold, if any. -/
def lastAccepted (q : QdecRegs) : List Word := if q.accVld then [q.accTs] else []

/-- A time outside the window may follow the stored one. -/
theorem spaced_lastAccepted_append {debMs : Word} {q : QdecRegs} {now : Word} {times : List Word}
    (hw : windowOpen debMs q now = false) (h : Spaced debMs (now :: times)) :
    Spaced debMs (lastAccepted q ++ now :: times) := by
  rcases (windowOpen_eq_false_iff debMs q now).1 hw with hvld | hle
  · rw [lastAccepted, hvld]
    exact h
  · unfold lastAccepted
    split
    · exact ⟨hle, h⟩
    · exact h

/-- By induction on the polls: a poll without a step keeps the stored time, an accepting one replaces it. -/
theorem spaced_acceptedTimes (debMs : Word) (q : QdecRegs) (polls : List DecoderPoll) :
    Spaced debMs (lastAccepted q ++ acceptedTimes debMs q polls) := by
  induction polls generalizing q with
  | nil =>
    rw [acceptedTimes, List.append_nil, lastAccepted]
    split <;> trivial
  | cons p rest ih =>
    by_cases hzero : (qdecStep debMs p.clk p.dt p.now q).1 = .zero
    · rw [acceptedTimes_cons_of_zero rest hzero, qdecStep_snd_of_zero hzero]
      exact ih { q with clk := p.clk, dt := p.dt }
    · obtain ⟨hw, hq, hp⟩ := fall_of_qdecStep_ne_zero hzero
      rw [acceptedTimes_cons_of_ne_zero rest hzero, hp, qdecStep_of_fall p.dt hw hq]
      exact spaced_lastAccepted_append hw (ih ⟨false, p.dt, p.now, true⟩)

/-- Settles O41, with the stored time as the first of the list. -/
theorem acceptedTransitionsAreSpaced : Obligations.AcceptedTransitionsAreSpaced := by
  unfold Obligations.AcceptedTransitionsAreSpaced
  exact spaced_acceptedTimes

end Sys2Proof.Machine
end

section
/-! PROOFS. The button's statements (41_edge_button.md): a poll's edges (R87 to R90), their alternation and the cooldown
between them, and the falls that are no release: of a suppressed press (R91) and of a button held through the warm-up
(R93). -/

namespace Sys2Proof.Machine

/-- Settles O43: in each of a poll's three cases the result names the case. -/
theorem buttonPollReportsEdges : Obligations.ButtonPollReportsEdges := by
  unfold Obligations.ButtonPollReportsEdges
  intro coolMs r a now
  rcases btnPoll_cases coolMs a now r with ⟨⟨rfl, hl, hp, hc⟩, e⟩ | ⟨⟨rfl, hl, hp⟩, e⟩ | ⟨hpress, hrelease, e⟩
  · simp [e, hl, hp, hc]
  · simp [e, hl, hp]
  · rw [e]
    refine ⟨⟨nofun, fun ⟨hl, ha, hp, hc⟩ => ?_⟩, ⟨nofun, fun ⟨hl, ha, hp⟩ => ?_⟩, nofun, nofun, fun _ => rfl, rfl⟩
    · exact absurd ⟨ha, hl, hp, hc⟩ hpress
    · exact absurd ⟨ha, hl, hp⟩ hrelease

/-! ### Lists of polls -/

section
variable {coolMs : Word} {r r' : ButtonRegs} {p : ButtonPoll}

/-- A poll without an edge leaves the rest of the list to its registers. -/
theorem buttonPolls_cons_of_noEdge (rest : List ButtonPoll) (h : btnPoll coolMs p.level p.now r = (.noEdge, r')) :
    buttonEdges coolMs r (p :: rest) = buttonEdges coolMs r' rest ∧
    buttonAfter coolMs r (p :: rest) = buttonAfter coolMs r' rest := by
  simp [buttonEdges, buttonAfter, h]

/-- A poll with an edge reports it before the edges of the rest. -/
theorem buttonEdges_cons_of_edge {x : BtnEdge} (rest : List ButtonPoll)
    (h : btnPoll coolMs p.level p.now r = (x, r')) (hx : x ≠ .noEdge) :
    buttonEdges coolMs r (p :: rest) = (x, p.now) :: buttonEdges coolMs r' rest := by
  simp [buttonEdges, h, hx]

end

/-! ### Alternation (R87 to R89) -/

theorem lastRelease_eq_some_iff (r : ButtonRegs) (t : Word) :
    r.lastRelease = some t ↔ r.relVld = true ∧ r.relTs = t := by
  simp [ButtonRegs.lastRelease]

/-- The cooldown test measures from the last release recorded (R88). -/
theorem coolMs_le_elapsed_of_lastRelease {coolMs : Word} {r : ButtonRegs} {now t : Word}
    (hc : r.relVld = false ∨ coolMs ≤ elapsed now r.relTs) (h : r.lastRelease = some t) : coolMs ≤ elapsed now t := by
  obtain ⟨hvld, rfl⟩ := (lastRelease_eq_some_iff r t).1 h
  exact hc.resolve_left (by simp [hvld])

/-- Settles O44, by induction on the polls: a press finds the button unpressed and its cooldown past, a release finds it
pressed and becomes the last one recorded, and a poll without an edge keeps both registers. -/
theorem buttonEdgesAlternate : Obligations.ButtonEdgesAlternate := by
  unfold Obligations.ButtonEdgesAlternate
  intro coolMs r polls
  induction polls generalizing r with
  | nil => trivial
  | cons p rest ih =>
    rcases btnPoll_cases coolMs p.level p.now r with ⟨⟨-, -, hp, hc⟩, e⟩ | ⟨⟨-, -, hp⟩, e⟩ | ⟨-, -, e⟩
    · rw [buttonEdges_cons_of_edge rest e nofun]
      exact ⟨hp, fun t ht => coolMs_le_elapsed_of_lastRelease hc ht, ih { r with line := true, pressed := true }⟩
    · rw [buttonEdges_cons_of_edge rest e nofun]
      exact ⟨hp, ih ⟨false, false, p.now, true⟩⟩
    · obtain ⟨hedges, -⟩ := buttonPolls_cons_of_noEdge rest e
      rw [hedges]
      exact ih { r with line := p.level }

/-! ### An active line of an unpressed button (R91, R93) -/

section
variable {coolMs : Word} {r : ButtonRegs}

/-- A press inside the cooldown only stores the level (R88, R90). -/
theorem btnPoll_suppressed {now : Word} (hl : r.line = false) (hvld : r.relVld = true)
    (hlt : elapsed now r.relTs < coolMs) : btnPoll coolMs true now r = (.noEdge, { r with line := true }) := by
  refine btnPoll_noEdge ?_ ?_
  · rintro ⟨-, -, -, hnone | hle⟩
    · exact Bool.false_ne_true (hnone ▸ hvld)
    · exact BitVec.not_le.2 hlt hle
  · rintro ⟨-, hhigh, -⟩
    exact Bool.false_ne_true (hl ▸ hhigh)

/-- While the line of an unpressed button is stored active no level is an edge: staying active is no rise, and the fall is
no release (R87, R89). -/
theorem btnPoll_of_active_unpressed (a : Bool) (now : Word) (hl : r.line = true) (hp : r.pressed = false) :
    btnPoll coolMs a now r = (.noEdge, { r with line := a }) := by
  refine btnPoll_noEdge ?_ ?_
  · rintro ⟨-, hlow, -⟩
    exact Bool.false_ne_true (hlow ▸ hl)
  · rintro ⟨-, -, hpressed⟩
    exact Bool.false_ne_true (hp ▸ hpressed)

/-- So the held polls and the fall report nothing and only clear the stored level, by induction on the held polls. -/
theorem buttonPolls_held_fall {held : List ButtonPoll} (fall : Word) (rest : List ButtonPoll) (hl : r.line = true)
    (hp : r.pressed = false) (hheld : ∀ x ∈ held, x.level = true) :
    buttonEdges coolMs r (held ++ ⟨false, fall⟩ :: rest) = buttonEdges coolMs { r with line := false } rest ∧
    buttonAfter coolMs r (held ++ ⟨false, fall⟩ :: rest) = buttonAfter coolMs { r with line := false } rest := by
  induction held with
  | nil => exact buttonPolls_cons_of_noEdge rest (btnPoll_of_active_unpressed false fall hl hp)
  | cons p held ih =>
    obtain ⟨hlevel, hheld⟩ := List.forall_mem_cons.1 hheld
    have hsame : { r with line := p.level } = r := by rw [hlevel, ← hl]
    have hpoll := btnPoll_of_active_unpressed (coolMs := coolMs) p.level p.now hl hp
    rw [hsame] at hpoll
    obtain ⟨hedges, hregs⟩ := buttonPolls_cons_of_noEdge (held ++ ⟨false, fall⟩ :: rest) hpoll
    rw [List.cons_append, hedges, hregs]
    exact ih hheld

end

/-- Settles O45: the suppressed press stores an active line of an unpressed button, whose fall restores the registers. -/
theorem suppressedPressIsLost : Obligations.SuppressedPressIsLost := by
  unfold Obligations.SuppressedPressIsLost
  intro coolMs r now fall held hl hp hvld hlt hheld
  obtain ⟨hedges, hregs⟩ := buttonPolls_cons_of_noEdge (p := ⟨true, now⟩) (held ++ [⟨false, fall⟩])
    (btnPoll_suppressed hl hvld hlt)
  obtain ⟨hedges', hregs'⟩ :=
    buttonPolls_held_fall (coolMs := coolMs) (r := { r with line := true }) fall [] rfl hp hheld
  rw [List.cons_append, hedges, hregs, hedges', hregs', ← hl]
  exact ⟨rfl, rfl⟩

/-- Settles O46: the settled button is unpressed with an active line, and its fall records no release, so the next rise
passes the cooldown test. -/
theorem buttonHeldThroughWarmUpIsSilent : Obligations.ButtonHeldThroughWarmUpIsSilent := by
  unfold Obligations.ButtonHeldThroughWarmUpIsSilent
  intro coolMs held fall rise hheld
  obtain ⟨hedges, -⟩ :=
    buttonPolls_held_fall (coolMs := coolMs) (r := btnSettle true) fall [⟨true, rise⟩] rfl rfl hheld
  rw [hedges, buttonEdges_cons_of_edge (x := .pressed) [] (btnPoll_press rfl rfl (.inl rfl)) nofun]
  rfl

end Sys2Proof.Machine
end

section
/-! PROOFS. The rate limiter's statements (42_rate_limiter.md): two emissions of one channel are `P_RATE_MS` apart (R96,
R97), and each channel, decoder and button follows its own lines only (R98, 40_quadrature_decoder.md R83,
41_edge_button.md R85). -/

namespace Sys2Proof.Machine

/-! ### The spacing of a channel's emissions (R96, R97) -/

section
variable {cfg : Config} {b : Block} {c : Chan}

/-- A rotation stage fills its slot exactly when its channel emits (43_event_router.md R105, R107). -/
theorem slotAfter_chanSlot_isSome (sample : Sample) (now : Word) :
    (slotAfter cfg sample now b (chanSlot c)).isSome = true ↔ Emits cfg c sample now b := by
  cases c <;> exact Option.isSome_ite

/-- What a tick does to a channel: it emits in the run phase, at its own time, or shows nothing in the channel's slot and
keeps the limiter. -/
theorem tickBlock_emits_or_keeps_rl (sample : Sample) (now : Word) :
    ((tickBlock cfg sample now b).valid (chanSlot c) = true ∧ Emits cfg c sample now b ∧
      (tickBlock cfg sample now b).lcNow = now) ∨
    ((tickBlock cfg sample now b).valid (chanSlot c) = false ∧
      (tickBlock cfg sample now b).rl.get c = b.rl.get c) := by
  rcases tickBlock_cases cfg sample now b with ⟨-, e⟩ | ⟨-, e⟩ <;> rw [e]
  · obtain ⟨-, -, -, -, hrl, -, -⟩ := warmTick_fields cfg sample now b
    exact .inr ⟨clearOutputs_valid _ _, by rw [hrl]⟩
  · obtain ⟨-, -, -, -, hrl, -, hvalid, -, -, hnow⟩ := runTick_fields cfg sample now b
    rw [hvalid, ← Bool.not_eq_true, slotAfter_chanSlot_isSome, hrl]
    by_cases h : Emits cfg c sample now b
    · exact .inl ⟨h, h, hnow⟩
    · exact .inr ⟨h, if_neg h⟩

/-- So does every edge without `RESET`: an idle edge clears the slot and keeps the limiter (R101). -/
theorem edgeBlock_emits_or_keeps_rl {e : Edge} (h : e.noReset = true) :
    ((edgeBlock cfg e b).valid (chanSlot c) = true ∧ Emits cfg c e.sample e.nowMs b ∧
      (edgeBlock cfg e b).lcNow = e.nowMs) ∨
    ((edgeBlock cfg e b).valid (chanSlot c) = false ∧ (edgeBlock cfg e b).rl.get c = b.rl.get c) := by
  rcases edgeBlock_noReset (cfg := cfg) (b := b) h with ⟨-, he⟩ | ⟨-, he⟩ <;> rw [he]
  · exact tickBlock_emits_or_keeps_rl e.sample e.nowMs
  · exact .inr ⟨clearOutputs_valid _ _, rfl⟩

/-- An edge that shows a record in the channel's slot emits, at its own time. -/
theorem emits_of_edgeBlock_valid {e : Edge} (h : e.noReset = true)
    (hv : (edgeBlock cfg e b).valid (chanSlot c) = true) :
    Emits cfg c e.sample e.nowMs b ∧ (edgeBlock cfg e b).lcNow = e.nowMs := by
  rcases edgeBlock_emits_or_keeps_rl (cfg := cfg) (b := b) (c := c) h with ⟨-, hemits⟩ | ⟨hempty, -⟩
  · exact hemits
  · exact absurd (hempty.symm.trans hv) Bool.false_ne_true

/-- An edge that shows none keeps the channel's limiter. -/
theorem edgeBlock_keeps_rl {e : Edge} (h : e.noReset = true) (hv : (edgeBlock cfg e b).valid (chanSlot c) = false) :
    (edgeBlock cfg e b).rl.get c = b.rl.get c := by
  rcases edgeBlock_emits_or_keeps_rl (cfg := cfg) (b := b) (c := c) h with ⟨hvalid, -⟩ | ⟨-, hkeep⟩
  · exact absurd (hv.symm.trans hvalid) Bool.false_ne_true
  · exact hkeep

/-- A run of edges along which the channel's slot stays empty keeps its limiter, by induction on the edges. -/
theorem edgesBlock_keeps_rl {es : List Edge} (hes : ∀ x ∈ es, x.noReset = true)
    (hquiet : ∀ pre suf, es = pre ++ suf → pre ≠ [] → (edgesBlock cfg pre b).valid (chanSlot c) = false) :
    (edgesBlock cfg es b).rl.get c = b.rl.get c := by
  induction es generalizing b with
  | nil => rfl
  | cons e es ih =>
    obtain ⟨he, hes⟩ := List.forall_mem_cons.1 hes
    have hfirst := edgeBlock_keeps_rl he (hquiet [e] es rfl (List.cons_ne_nil _ _))
    have hrest := ih (b := edgeBlock cfg e b) hes fun pre suf heq _ =>
      hquiet (e :: pre) suf (congrArg (e :: ·) heq) (List.cons_ne_nil _ _)
    exact hrest.trans hfirst

/-- A channel with a record in its slot has recorded its emission at the tick's time (R97). -/
theorem rl_of_valid_chanSlot (hinv : b.Inv cfg) (hv : b.valid (chanSlot c) = true) : b.rl.get c = ⟨b.lcNow, true⟩ := by
  cases c with
  | main =>
    obtain ⟨-, hrl, -⟩ := hinv.slot_main hv
    exact hrl
  | sub =>
    obtain ⟨-, hrl, -⟩ := hinv.slot_sub hv
    exact hrl

end

/-- Settles O42: the quiet run keeps the time that the first emission recorded, and the next one passes the limiter's test
against it. -/
theorem emissionsOfAChannelAreSpaced : Obligations.EmissionsOfAChannelAreSpaced := by
  unfold Obligations.EmissionsOfAChannelAreSpaced
  intro c s t u es e hinv hv hes he hquiet hrun hlast hemit
  have ha := hinv.accepted
  have ht := (runsTo_iff es ha).1 hrun
  have hcfg : t.cfg = s.cfg := by rw [ht]; rfl
  have hkeep : t.block.rl.get c = ⟨s.block.lcNow, true⟩ := by
    rw [ht, State.setBlock_block, ← rl_of_valid_chanSlot hinv.block hv]
    exact edgesBlock_keeps_rl hes fun pre suf heq hne => hquiet pre suf heq hne _ ((runsTo_iff pre ha).2 rfl)
  obtain rfl := (runsTo_iff [e] (hcfg ▸ ha)).1 hlast
  obtain ⟨⟨-, hallow⟩, hnow⟩ := emits_of_edgeBlock_valid he hemit
  rw [hkeep, hcfg] at hallow
  exact hnow ▸ hallow.resolve_left nofun

/-! ### Two runs that agree on some lines

A claim of independence is a relation between the blocks of two runs. It names the registers that agree, `WARM` among
them, since the phase of a tick is chosen by `WARM` (43_event_router.md R102). -/

/-- The relation `P` between two blocks is kept by each operation of an edge, when both runs perform it at edges related
by `R`; and `R` and `P` make both runs perform the same one. -/
structure KeptByOperations (cfg : Config) (R : Edge → Edge → Prop) (P : Block → Block → Prop) : Prop where
  ctl : ∀ {x y}, R x y → x.ctl = y.ctl
  warm : ∀ {b b'}, P b b' → b'.warm = b.warm
  reset : P Block.cleared Block.cleared
  idle : ∀ {b b'}, P b b' → P (clearOutputs b) (clearOutputs b')
  warmTick : ∀ {x y b b'}, R x y → P b b' → P (warmTick cfg x.sample x.nowMs b) (warmTick cfg y.sample y.nowMs b')
  runTick : ∀ {x y b b'}, R x y → P b b' → P (runTick cfg x.sample x.nowMs b) (runTick cfg y.sample y.nowMs b')

section
variable {cfg : Config} {R : Edge → Edge → Prop} {P : Block → Block → Prop}

/-- Related edges perform the same operation on related blocks. -/
theorem KeptByOperations.edgeBlock (h : KeptByOperations cfg R P) {x y : Edge} {b b' : Block} (hR : R x y)
    (hP : P b b') : P (edgeBlock cfg x b) (edgeBlock cfg y b') := by
  unfold Machine.edgeBlock tickBlock
  rw [← h.ctl hR, h.warm hP]
  split_ifs
  · exact h.reset
  · exact h.warmTick hR hP
  · exact h.runTick hR hP
  · exact h.idle hP

/-- So the blocks after related lists of edges are related. -/
theorem KeptByOperations.edgesBlock (h : KeptByOperations cfg R P) {es es' : List Edge} {b b' : Block}
    (hR : List.Forall₂ R es es') (hP : P b b') : P (edgesBlock cfg es b) (edgesBlock cfg es' b') := by
  induction hR generalizing b b' with
  | nil => exact hP
  | cons hxy _ ih => exact ih (h.edgeBlock hxy hP)

/-- The same, of the states of two runs under one accepted configuration. -/
theorem KeptByOperations.runsTo {s s' t t' : State} {es es' : List Edge} (h : KeptByOperations s.cfg R P)
    (ha : s.cfg.accepted = true) (hcfg : s'.cfg = s.cfg) (hR : List.Forall₂ R es es') (hP : P s.block s'.block)
    (hrun : RunsTo s es t) (hrun' : RunsTo s' es' t') : P t.block t'.block := by
  obtain rfl := (runsTo_iff es ha).1 hrun
  obtain rfl := (runsTo_iff es' (hcfg ▸ ha)).1 hrun'
  rw [State.setBlock_block, State.setBlock_block, hcfg]
  exact h.edgesBlock hR hP

end

/-! ### The units of a channel: decoder and limiter (R98, 40_quadrature_decoder.md R83) -/

/-- Two edges agree in `CTL`, `now_ms` and the two lines of channel c. -/
def AgreeOnChan (c : Chan) (x y : Edge) : Prop :=
  x.ctl = y.ctl ∧ x.nowMs = y.nowMs ∧ clkLevel c x.sample = clkLevel c y.sample ∧
    dtLevel c x.sample = dtLevel c y.sample

/-- Two blocks agree in `WARM` and the decoder and the limiter of channel c. -/
structure SameChan (c : Chan) (b b' : Block) : Prop where
  warm : b'.warm = b.warm
  qdec : b'.qdec.get c = b.qdec.get c
  rl : b'.rl.get c = b.rl.get c

section
variable {cfg : Config} {c : Chan} {x y : Edge} {b b' : Block}

theorem emits_congr (hR : AgreeOnChan c x y) (hP : SameChan c b b') :
    Emits cfg c y.sample y.nowMs b' ↔ Emits cfg c x.sample x.nowMs b := by
  obtain ⟨-, hnow, hclk, -⟩ := hR
  unfold Emits Accepts
  rw [hP.qdec, hP.rl, hnow, hclk]

theorem qdecAfter_congr (hR : AgreeOnChan c x y) (hP : SameChan c b b') :
    qdecAfter cfg y.sample y.nowMs b' c = qdecAfter cfg x.sample x.nowMs b c := by
  obtain ⟨-, hnow, hclk, hdt⟩ := hR
  unfold qdecAfter
  rw [hP.qdec, hnow, hclk, hdt]

theorem qdecWarm_congr (hR : AgreeOnChan c x y) (hP : SameChan c b b') :
    qdecWarm cfg y.sample y.nowMs b' c = qdecWarm cfg x.sample x.nowMs b c := by
  unfold qdecWarm
  rw [qdecAfter_congr hR hP, hP.warm, hP.qdec]
  obtain ⟨-, -, hclk, hdt⟩ := hR
  rw [hclk, hdt]

theorem rlAfter_congr (hR : AgreeOnChan c x y) (hP : SameChan c b b') :
    rlAfter cfg y.sample y.nowMs b' c = rlAfter cfg x.sample x.nowMs b c := by
  unfold rlAfter
  simp only [emits_congr hR hP, hP.rl]
  obtain ⟨-, hnow, -, -⟩ := hR
  rw [hnow]

theorem warmTick_sameChan (hR : AgreeOnChan c x y) (hP : SameChan c b b') :
    SameChan c (warmTick cfg x.sample x.nowMs b) (warmTick cfg y.sample y.nowMs b') := by
  obtain ⟨hw, -, -, hq, hr, -, -⟩ := warmTick_fields cfg x.sample x.nowMs b
  obtain ⟨hw', -, -, hq', hr', -, -⟩ := warmTick_fields cfg y.sample y.nowMs b'
  constructor
  · rw [hw', hw, hP.warm]
  · rw [hq', hq, qdecWarm_congr hR hP]
  · rw [hr', hr, hP.rl]

theorem runTick_sameChan (hR : AgreeOnChan c x y) (hP : SameChan c b b') :
    SameChan c (runTick cfg x.sample x.nowMs b) (runTick cfg y.sample y.nowMs b') := by
  obtain ⟨hw, -, -, hq, hr, -, -, -, -, -⟩ := runTick_fields cfg x.sample x.nowMs b
  obtain ⟨hw', -, -, hq', hr', -, -, -, -, -⟩ := runTick_fields cfg y.sample y.nowMs b'
  constructor
  · rw [hw', hw, hP.warm]
  · rw [hq', hq, qdecAfter_congr hR hP]
  · rw [hr', hr, rlAfter_congr hR hP]

end

theorem sameChan_kept (cfg : Config) (c : Chan) : KeptByOperations cfg (AgreeOnChan c) (SameChan c) where
  ctl hR := hR.1
  warm hP := hP.warm
  reset := ⟨rfl, rfl, rfl⟩
  idle hP := ⟨hP.warm, hP.qdec, hP.rl⟩
  warmTick := warmTick_sameChan
  runTick := runTick_sameChan

/-! ### The main channel with its counter and its slot (43_event_router.md R105) -/

/-- Two blocks agree in the main channel's units, in `MAIN_IDX` and in slot 0. -/
structure SameMain (b b' : Block) : Prop extends SameChan .main b b' where
  mainIdx : b'.mainIdx = b.mainIdx
  valid : b'.valid .s0 = b.valid .s0
  slot : b'.evSlot.s0 = b.evSlot.s0

section
variable {cfg : Config} {x y : Edge} {b b' : Block}

theorem mainAfter_congr (hR : AgreeOnChan .main x y) (hP : SameMain b b') :
    mainAfter cfg y.sample y.nowMs b' = mainAfter cfg x.sample x.nowMs b := by
  unfold mainAfter stepByte
  simp only [emits_congr hR hP.toSameChan, hP.mainIdx]
  obtain ⟨-, -, -, hdt⟩ := hR
  rw [hdt]

theorem slotAfter_main_congr (hR : AgreeOnChan .main x y) (hP : SameMain b b') :
    slotAfter cfg y.sample y.nowMs b' .s0 = slotAfter cfg x.sample x.nowMs b .s0 := by
  unfold slotAfter
  simp only [emits_congr hR hP.toSameChan, mainAfter_congr hR hP]
  obtain ⟨-, hnow, -, -⟩ := hR
  rw [hnow]

/-- A warm-up tick keeps `MAIN_IDX` and empties the slot in both runs (R103). -/
theorem warmTick_sameMain (hR : AgreeOnChan .main x y) (hP : SameMain b b') :
    SameMain (warmTick cfg x.sample x.nowMs b) (warmTick cfg y.sample y.nowMs b') where
  toSameChan := warmTick_sameChan hR hP.toSameChan
  mainIdx := by
    obtain ⟨-, hm, -⟩ := warmTick_fields cfg x.sample x.nowMs b
    obtain ⟨-, hm', -⟩ := warmTick_fields cfg y.sample y.nowMs b'
    rw [hm', hm, hP.mainIdx]
  valid := (clearOutputs_valid _ _).trans (clearOutputs_valid _ _).symm
  slot := rfl

/-- A run tick's stage 1 reads the main channel only. -/
theorem runTick_sameMain (hR : AgreeOnChan .main x y) (hP : SameMain b b') :
    SameMain (runTick cfg x.sample x.nowMs b) (runTick cfg y.sample y.nowMs b') := by
  obtain ⟨-, hm, -, -, -, -, hv, he, -, -⟩ := runTick_fields cfg x.sample x.nowMs b
  obtain ⟨-, hm', -, -, -, -, hv', he', -, -⟩ := runTick_fields cfg y.sample y.nowMs b'
  refine ⟨runTick_sameChan hR hP.toSameChan, ?_, ?_, ?_⟩
  · rw [hm', hm, mainAfter_congr hR hP]
  · rw [hv', hv, slotAfter_main_congr hR hP]
  · rw [← PerSlot.get_s0, ← PerSlot.get_s0, he', he, slotAfter_main_congr hR hP]

end

theorem sameMain_kept (cfg : Config) : KeptByOperations cfg (AgreeOnChan .main) SameMain where
  ctl hR := hR.1
  warm hP := hP.warm
  reset := ⟨⟨rfl, rfl, rfl⟩, rfl, rfl, rfl⟩
  idle hP := ⟨⟨hP.warm, hP.qdec, hP.rl⟩, hP.mainIdx, rfl, rfl⟩
  warmTick := warmTick_sameMain
  runTick := runTick_sameMain

/-- Settles O48: agreement in the main channel's registers is kept by every operation at edges that agree on its lines. -/
theorem mainChannelIgnoresTheOtherLines : Obligations.MainChannelIgnoresTheOtherLines := by
  unfold Obligations.MainChannelIgnoresTheOtherLines
  intro s s' t t' es es' ha hcfg hlines hwarm hmain hqdec hrl hvalid hslot hrun hrun'
  have hend := (sameMain_kept s.cfg).runsTo ha hcfg hlines ⟨⟨hwarm, hqdec, hrl⟩, hmain, hvalid, hslot⟩ hrun hrun'
  exact ⟨hend.warm, hend.mainIdx, hend.qdec, hend.rl, hend.valid, hend.slot⟩

/-! ### A button (41_edge_button.md R85) -/

/-- Two edges agree in `CTL`, `now_ms` and the line of button i. -/
def AgreeOnBtn (i : Btn) (x y : Edge) : Prop :=
  x.ctl = y.ctl ∧ x.nowMs = y.nowMs ∧ btnLevel i x.sample = btnLevel i y.sample

/-- Two blocks agree in `WARM` and the registers of button i. -/
structure SameBtn (i : Btn) (b b' : Block) : Prop where
  warm : b'.warm = b.warm
  bt : b'.bt.get i = b.bt.get i

section
variable {cfg : Config} {i : Btn} {x y : Edge} {b b' : Block}

/-- A warm-up tick settles the button at its level (R92). -/
theorem warmTick_sameBtn (hR : AgreeOnBtn i x y) (hP : SameBtn i b b') :
    SameBtn i (warmTick cfg x.sample x.nowMs b) (warmTick cfg y.sample y.nowMs b') := by
  obtain ⟨-, -, hlevel⟩ := hR
  obtain ⟨hw, -, -, -, -, hb, -⟩ := warmTick_fields cfg x.sample x.nowMs b
  obtain ⟨hw', -, -, -, -, hb', -⟩ := warmTick_fields cfg y.sample y.nowMs b'
  constructor
  · rw [hw', hw, hP.warm]
  · rw [hb', hb, hlevel]

/-- A run tick polls it with its level and the time (R86). -/
theorem runTick_sameBtn (hR : AgreeOnBtn i x y) (hP : SameBtn i b b') :
    SameBtn i (runTick cfg x.sample x.nowMs b) (runTick cfg y.sample y.nowMs b') := by
  obtain ⟨-, hnow, hlevel⟩ := hR
  obtain ⟨hw, -, -, -, -, hb, -, -, -, -⟩ := runTick_fields cfg x.sample x.nowMs b
  obtain ⟨hw', -, -, -, -, hb', -, -, -, -⟩ := runTick_fields cfg y.sample y.nowMs b'
  constructor
  · rw [hw', hw, hP.warm]
  · rw [hb', hb, btAfter, btAfter, hP.bt, hnow, hlevel]

end

theorem sameBtn_kept (cfg : Config) (i : Btn) : KeptByOperations cfg (AgreeOnBtn i) (SameBtn i) where
  ctl hR := hR.1
  warm hP := hP.warm
  reset := ⟨rfl, rfl⟩
  idle hP := ⟨hP.warm, hP.bt⟩
  warmTick := warmTick_sameBtn
  runTick := runTick_sameBtn

/-- Settles O49: so is agreement in one channel's decoder and limiter, and in one button. -/
theorem unitsFollowTheirOwnLines : Obligations.UnitsFollowTheirOwnLines := by
  unfold Obligations.UnitsFollowTheirOwnLines
  intro s s' t t' es es' ha hcfg hwarm hrun hrun'
  constructor
  · intro c hlines hqdec hrl
    have hend := (sameChan_kept s.cfg c).runsTo ha hcfg hlines ⟨hwarm, hqdec, hrl⟩ hrun hrun'
    exact ⟨hend.qdec, hend.rl⟩
  · intro i hlines hbt
    exact ((sameBtn_kept s.cfg i).runsTo ha hcfg hlines ⟨hwarm, hbt⟩ hrun hrun').bt

end Sys2Proof.Machine
end

section
/-! PROOFS. The event router's statements (43_event_router.md): `RESET` and `IDLE` (R100, R101), the warm-up tick (R103),
the run tick stage by stage (R104 to R108, R111), the counter arithmetic (R112). -/

namespace Sys2Proof.Machine

/-! ### IDLE (R101) -/

theorem edgeBlock_idle {e : Edge} (h : e.ctl = 0b00) (cfg : Config) (b : Block) : edgeBlock cfg e b = clearOutputs b := by
  rw [edgeBlock, h]; rfl

/-- No edge reads the output registers: `RESET` reads nothing, a tick and an idle edge write them all (R51). -/
theorem edgeBlock_clearOutputs (cfg : Config) (e : Edge) (b : Block) :
    edgeBlock cfg e (clearOutputs b) = edgeBlock cfg e b := by
  unfold edgeBlock
  split_ifs
  · rfl
  · exact tickBlock_clearOutputs cfg e.sample e.nowMs b
  · rfl

/-- So an idle edge before a run of edges that is not empty changes nothing of its end. -/
theorem edgesBlock_clearOutputs (cfg : Config) {es : List Edge} (hne : es ≠ []) (b : Block) :
    edgesBlock cfg es (clearOutputs b) = edgesBlock cfg es b := by
  cases es with
  | nil => exact absurd rfl hne
  | cons e es => rw [edgesBlock, edgesBlock, edgeBlock_clearOutputs]

/-- Dropping the idle edges before a last edge, by induction on the edges: a dropped one has cleared the outputs only, which
the edges after it do not read. -/
theorem edgesBlock_dropIdle (cfg : Config) (es : List Edge) (e : Edge) (b : Block) :
    edgesBlock cfg (es.filter (fun x => x.ctl ≠ 0b00) ++ [e]) b = edgesBlock cfg (es ++ [e]) b := by
  induction es generalizing b with
  | nil => rfl
  | cons x xs ih =>
    by_cases hx : x.ctl = 0b00
    · calc edgesBlock cfg ((x :: xs).filter (fun x => x.ctl ≠ 0b00) ++ [e]) b
          = edgesBlock cfg (xs.filter (fun x => x.ctl ≠ 0b00) ++ [e]) b := by
            rw [List.filter_cons_of_neg (by simpa using hx)]
        _ = edgesBlock cfg (xs ++ [e]) b := ih b
        _ = edgesBlock cfg (xs ++ [e]) (clearOutputs b) :=
            (edgesBlock_clearOutputs cfg (List.append_ne_nil_of_right_ne_nil xs (List.cons_ne_nil e [])) b).symm
        _ = edgesBlock cfg (x :: xs ++ [e]) b := by rw [List.cons_append, edgesBlock, edgeBlock_idle hx]
    · rw [List.filter_cons_of_pos (by simpa using hx)]
      exact ih _

/-- Settles O16: both runs change the block only, and to the same block, whatever the last edge is. -/
theorem idleEdgesAreInvisible : Obligations.IdleEdgesAreInvisible := by
  unfold Obligations.IdleEdgesAreInvisible
  intro s es e ha _
  refine ⟨_, (runsTo_iff (es ++ [e]) ha).2 rfl, (runsTo_iff _ ha).2 ?_⟩
  rw [edgesBlock_dropIdle]

theorem clearOutputs_deliveries (b : Block) : (clearOutputs b).deliveries = [] := by
  simp [Block.deliveries, Block.events, Block.lifecycle]

/-- Settles O15: `IDLE` is `clearOutputs`, which is idempotent and leaves nothing to deliver. -/
theorem idleClearsTheOutputsOnly : Obligations.IdleClearsTheOutputsOnly := by
  unfold Obligations.IdleClearsTheOutputsOnly
  exact fun s => ⟨s.setBlock (clearOutputs s.block), rfl, rfl, clearOutputs_deliveries s.block, rfl⟩

/-! ### RESET (R100) -/

theorem edgeBlock_reset {e : Edge} (h : e.ctl = 0b10 ∨ e.ctl = 0b11) (cfg : Config) (b : Block) :
    edgeBlock cfg e b = Block.cleared := by
  have hrst : e.ctl.getLsbD 1 = true := by rcases h with h | h <;> rw [h] <;> rfl
  rw [edgeBlock, if_pos hrst]

/-- An accepted configuration has a warm-up phase (00_scope.md R9). -/
theorem warm_pos_of_accepted {cfg : Config} (h : cfg.accepted = true) : 0 < cfg.warm := by
  have hne : cfg.warm ≠ 0 := bne_iff_ne.1 h
  bv_omega

/-- Settles O14: the registers are `Block.cleared`, from which the first tick, below `P_WARM`, is the settling read. -/
theorem resetClearsEveryRegister : Obligations.ResetClearsEveryRegister := by
  unfold Obligations.ResetClearsEveryRegister
  intro lostTick s
  refine ⟨s.setBlock Block.cleared, rfl, rfl, rfl, rfl, fun e => ?_, fun c => ?_, fun i => ?_, rfl, fun k => ?_, rfl, rfl,
    rfl, rfl, rfl, fun _ => rfl, fun ha sample now => ?_⟩
  · cases e <;> rfl
  · cases c <;> rfl
  · cases i <;> rfl
  · cases k <;> rfl
  · obtain ⟨hwarm, -, -, hqdec, -⟩ := warmTick_fields s.cfg sample now Block.cleared
    refine ⟨_, exec_tick_warm (warm_pos_of_accepted ha), hwarm, fun e => (hqdec e).trans ?_⟩
    have hfirst : Block.cleared.warm = 0 := rfl
    rw [qdecWarm, if_pos hfirst]
    cases e <;> rfl

/-- Settles O17: after the `RESET` edge the block is the fresh one, and a run reads the block and the configuration only. -/
theorem resetForgetsThePast : Obligations.ResetForgetsThePast := by
  unfold Obligations.ResetForgetsThePast
  intro s e es ha hctl
  refine ⟨_, _, (runsTo_iff (e :: es) ha).2 rfl, (runsTo_iff (s := State.fresh s.cfg) es ha).2 rfl, ?_⟩
  rw [State.setBlock_block, edgesBlock, edgeBlock_reset hctl]
  rfl

/-! ### The warm-up tick (R103) -/

/-- Settles O19: the settling read comes at `WARM` = 0, and a later warm-up tick polls as any tick does. -/
theorem warmTickEffects : Obligations.WarmTickEffects := by
  unfold Obligations.WarmTickEffects
  intro sample now s hwarming
  obtain ⟨hwarm, hmain, hsub, hqdec, hrl, hbt, hsilent⟩ := warmTick_fields s.cfg sample now s.block
  refine ⟨_, exec_tick_warm hwarming, hwarm, hmain, hsub, hrl, hbt, fun e => (hqdec e).trans ?_, hsilent, rfl, rfl, rfl⟩
  by_cases hfirst : s.block.warm = 0
  · rw [qdecWarm, if_pos hfirst, if_neg fun h => h.1 hfirst]
  · rw [qdecWarm, if_neg hfirst, qdecAfter_eq]
    simp only [ne_eq, hfirst, not_false_eq_true, true_and]

/-! ### The lifecycle strobe (R111) -/

/-- Settles O23: `LC_TICK` and `LC_NOW` are set, so the lifecycle tick ends the list of deliveries. -/
theorem runTickStrobesTheLifecycle : Obligations.RunTickStrobesTheLifecycle := by
  unfold Obligations.RunTickStrobesTheLifecycle
  intro sample now s hrun
  obtain ⟨hwarm, -, -, -, -, -, -, -, hstrobe, hnow⟩ := runTick_fields s.cfg sample now s.block
  have hlife : (runTick s.cfg sample now s.block).lifecycle = some now := by
    rw [Block.lifecycle, if_pos hstrobe, hnow]
  refine ⟨_, exec_tick_run hrun, hstrobe, hnow, hlife, ?_, hwarm, rfl, rfl, rfl⟩
  rw [State.setBlock_block, Block.deliveries, hlife]
  rfl

/-! ### The rotation stages (R105 to R107) -/

section
variable {cfg : Config} {sample : Sample} {now : Word} {b : Block}

/-- A stage that builds a record shows it in its slot (R110). -/
theorem runTick_slot_of_some {k : Slot} {r : Record} (h : slotAfter cfg sample now b k = some r) :
    (runTick cfg sample now b).valid k = true ∧ (runTick cfg sample now b).evSlot.get k = r := by
  obtain ⟨-, -, -, -, -, -, hvalid, hslot, -, -⟩ := runTick_fields cfg sample now b
  rw [hvalid, hslot, h]
  exact ⟨rfl, rfl⟩

/-- A stage that builds none leaves its slot empty (10_state.md R36). -/
theorem runTick_slot_of_none {k : Slot} (h : slotAfter cfg sample now b k = none) :
    (runTick cfg sample now b).valid k = false ∧ (runTick cfg sample now b).evSlot.get k = 0 := by
  obtain ⟨-, -, -, -, -, -, hvalid, hslot, -, -⟩ := runTick_fields cfg sample now b
  rw [hvalid, hslot, h]
  exact ⟨rfl, rfl⟩

theorem slotAfter_main_of_emits (h : Emits cfg .main sample now b) :
    slotAfter cfg sample now b .s0 = some (packRecord 0 (b.mainIdx + stepByte .main sample) 0 now) := by
  rw [slotAfter, if_pos h, mainAfter, if_pos h]
  rfl

theorem slotAfter_sub_of_emits (h : Emits cfg .sub sample now b) :
    slotAfter cfg sample now b .s1 =
      some (packRecord 1 (mainAfter cfg sample now b) (subAfter cfg sample now b) now) :=
  if_pos h

/-- `SUB_IDX` when its channel emits (R107). -/
theorem subAfter_of_emits (h : Emits cfg .sub sample now b) :
    subAfter cfg sample now b = (if Emits cfg .main sample now b then 0 else b.subIdx) + stepByte .sub sample :=
  if_pos h

/-- `SUB_IDX` when its channel does not: what stage 1 left (R106). -/
theorem subAfter_of_not_emits (h : ¬ Emits cfg .sub sample now b) :
    subAfter cfg sample now b = if Emits cfg .main sample now b then 0 else b.subIdx :=
  if_neg h

end

/-- Settles O24: the main channel's registers, slot and part of `SUB_IDX`, when it emits and when it does not. -/
theorem mainChannelStage : Obligations.MainChannelStage := by
  unfold Obligations.MainChannelStage
  intro sample now s hrun
  obtain ⟨-, hmain, hsub, hqdec, hrl, -⟩ := runTick_fields s.cfg sample now s.block
  refine ⟨_, exec_tick_run hrun, fun hm => ?_, fun hm => ?_, (hqdec .main).trans (qdecAfter_eq _ _ _ _ .main)⟩
  · obtain ⟨hvalid, hslot⟩ := runTick_slot_of_some (slotAfter_main_of_emits hm)
    refine ⟨hmain.trans (if_pos hm), (hrl .main).trans (if_pos hm), hvalid, hslot, fun hs => ?_⟩
    rw [State.setBlock_block, hsub, subAfter_of_not_emits hs, if_pos hm]
  · obtain ⟨hvalid, hslot⟩ := runTick_slot_of_none (k := .s0) (if_neg hm)
    refine ⟨hmain.trans (if_neg hm), (hrl .main).trans (if_neg hm), hvalid, hslot, fun hs => ?_⟩
    rw [State.setBlock_block, hsub, subAfter_of_not_emits hs, if_neg hm]

/-- Settles O25: the sub channel's registers and slot, when it emits and when it does not; `MAIN_IDX` is stage 1's. -/
theorem subChannelStage : Obligations.SubChannelStage := by
  unfold Obligations.SubChannelStage
  intro sample now s hrun
  obtain ⟨-, hmain, hsub, hqdec, hrl, -⟩ := runTick_fields s.cfg sample now s.block
  refine ⟨_, exec_tick_run hrun, fun hs => ?_, fun hs => ?_, hmain, (hqdec .sub).trans (qdecAfter_eq _ _ _ _ .sub)⟩
  · obtain ⟨hvalid, hslot⟩ := runTick_slot_of_some (slotAfter_sub_of_emits hs)
    rw [← hmain, ← hsub] at hslot
    exact ⟨hsub.trans (subAfter_of_emits hs), (hrl .sub).trans (if_pos hs), hvalid, hslot⟩
  · obtain ⟨hvalid, hslot⟩ := runTick_slot_of_none (k := .s1) (if_neg hs)
    exact ⟨hsub.trans (subAfter_of_not_emits hs), (hrl .sub).trans (if_neg hs), hvalid, hslot⟩

/-- Settles O26: with a main step the sub stage counts from 0, and each record shows the counters its stage left. -/
theorem mainStepResetsTheSubIndex : Obligations.MainStepResetsTheSubIndex := by
  unfold Obligations.MainStepResetsTheSubIndex
  intro sample now s hrun
  obtain ⟨-, -, hsub, -⟩ := runTick_fields s.cfg sample now s.block
  refine ⟨_, exec_tick_run hrun, fun hm => ?_, fun hm => ?_⟩
  · obtain ⟨-, hslot0⟩ := runTick_slot_of_some (slotAfter_main_of_emits hm)
    rw [PerSlot.get_s0] at hslot0
    rw [State.setBlock_block, hslot0, hsub]
    refine ⟨recordMain_pack _ _ _ _, recordSub_pack _ _ _ _, fun hs => ?_, fun hs => ?_⟩
    · obtain ⟨-, hslot1⟩ := runTick_slot_of_some (slotAfter_sub_of_emits hs)
      rw [PerSlot.get_s1] at hslot1
      rw [hslot1, recordSub_pack, subAfter_of_emits hs, if_pos hm]
      exact ⟨BitVec.zero_add _, rfl⟩
    · rw [subAfter_of_not_emits hs, if_pos hm]
  · rw [State.setBlock_block, hsub, subAfter, subBase, if_neg hm]

/-! ### The button stages (R108) -/

section
variable {cfg : Config} {sample : Sample} {now : Word} {b : Block} {i : Btn}

theorem slotAfter_button : slotAfter cfg sample now b i.slot = btnRecord cfg sample now b i := by
  cases i <;> rfl

/-- A button's stage, from the result of its poll: the registers it answers, and the routed kind with the counters of the
tick's end. -/
theorem runTick_button {x : BtnEdge} {r : ButtonRegs}
    (h : btnPoll cfg.coolMs (btnLevel i sample) now (b.bt.get i) = (x, r)) :
    (runTick cfg sample now b).bt.get i = r ∧
    (runTick cfg sample now b).valid i.slot = (routeKind (cfg.route.get i) x).isSome ∧
    ∀ kind, routeKind (cfg.route.get i) x = some kind →
      (runTick cfg sample now b).evSlot.get i.slot = packRecord (Kind.button kind).ordinal
        (runTick cfg sample now b).mainIdx (runTick cfg sample now b).subIdx now := by
  obtain ⟨-, hmain, hsub, -, -, hbt, hvalid, hslot, -, -⟩ := runTick_fields cfg sample now b
  rw [hbt, hvalid, hslot, hmain, hsub, slotAfter_button, btAfter, btnRecord, h]
  refine ⟨rfl, Option.isSome_map, fun kind hkind => ?_⟩
  rw [hkind]
  rfl

theorem btnPoll_of_presses (h : Presses cfg i sample now b) :
    btnPoll cfg.coolMs (btnLevel i sample) now (b.bt.get i) =
      (.pressed, { b.bt.get i with line := true, pressed := true }) := by
  obtain ⟨hlevel, hline, hpressed, hcool⟩ := h
  rw [hlevel, btnPoll_press hline hpressed hcool]

theorem btnPoll_of_releases (h : Releases i sample b) :
    btnPoll cfg.coolMs (btnLevel i sample) now (b.bt.get i) = (.released, ⟨false, false, now, true⟩) := by
  obtain ⟨hlevel, hline, hpressed⟩ := h
  rw [hlevel, btnPoll_release hline hpressed]

end

/-- Settles O27: a poll's three cases, each with its kind routed or none. -/
theorem buttonStages : Obligations.ButtonStages := by
  unfold Obligations.ButtonStages
  intro sample now s i hrun
  refine ⟨_, exec_tick_run hrun, fun hpress => ?_, fun hrelease => ?_, fun hpress hrelease => ?_, fun hempty => ?_⟩
  · exact runTick_button (btnPoll_of_presses hpress)
  · exact runTick_button (btnPoll_of_releases hrelease)
  · obtain ⟨hbt, hvalid, -⟩ := runTick_button (btnPoll_noEdge hpress hrelease)
    exact ⟨hbt, hvalid⟩
  · obtain ⟨-, -, -, -, -, -, hvalid, -⟩ := runTick_fields s.cfg sample now s.block
    rw [State.setBlock_block, hvalid, Option.isSome_eq_false_iff, Option.isNone_iff_eq_none] at hempty
    exact (runTick_slot_of_none hempty).2

/-! ### The quiet run tick (R104) -/

section
variable {cfg : Config} {sample : Sample} {now : Word} {b : Block}

theorem not_accepts_of_no_fall {e : Chan} (h : (b.qdec.get e).clk = true → clkLevel e sample = true) :
    ¬ Accepts cfg e sample now b := fun ⟨_, hclk, hlow⟩ => Bool.false_ne_true (hlow.symm.trans (h hclk))

/-- A button whose level stays reports no edge and keeps its registers (41_edge_button.md R87, R89, R90). -/
theorem btnPoll_of_same_level {i : Btn} (h : (b.bt.get i).line = btnLevel i sample) :
    btnPoll cfg.coolMs (btnLevel i sample) now (b.bt.get i) = (.noEdge, b.bt.get i) := by
  rw [← h]
  exact btnPoll_noEdge (fun ⟨hhigh, hlow, _⟩ => Bool.false_ne_true (hlow.symm.trans hhigh))
    fun ⟨hlow, hhigh, _⟩ => Bool.false_ne_true (hlow.symm.trans hhigh)

/-- No stage of a quiet tick builds a record. -/
theorem slotAfter_quiet (hclk : ∀ e, ¬ Accepts cfg e sample now b) (hbt : ∀ i, (b.bt.get i).line = btnLevel i sample)
    (k : Slot) : slotAfter cfg sample now b k = none := by
  cases k with
  | s0 => exact if_neg fun hemits => hclk .main hemits.1
  | s1 => exact if_neg fun hemits => hclk .sub hemits.1
  | s2 => rw [slotAfter, btnRecord, btnPoll_of_same_level (hbt .b0)]; rfl
  | s3 => rw [slotAfter, btnRecord, btnPoll_of_same_level (hbt .b1)]; rfl

/-- A run tick that accepts no transition and sees no button level change, register by register. -/
theorem runTick_quiet (hacc : ∀ e, ¬ Accepts cfg e sample now b) (hline : ∀ i, (b.bt.get i).line = btnLevel i sample) :
    runTick cfg sample now b = { b with
      qdec := ⟨{ b.qdec.main with clk := clkLevel .main sample, dt := dtLevel .main sample },
        { b.qdec.sub with clk := clkLevel .sub sample, dt := dtLevel .sub sample }⟩,
      evValid := 0, evSlot := ⟨0, 0, 0, 0⟩, lcTick := true, lcNow := now } := by
  have hemits (c : Chan) : ¬ Emits cfg c sample now b := fun h => hacc c h.1
  have hempty (k : Slot) := runTick_slot_of_none (slotAfter_quiet hacc hline k)
  obtain ⟨hwarm, hmain, hsub, hqdec, hrl, hbt, -, -, hstrobe, hnow⟩ := runTick_fields cfg sample now b
  apply Block.eq_of_fields
  · exact hwarm
  · exact hmain.trans (if_neg (hemits .main))
  · rw [hsub, subAfter_of_not_emits (hemits .sub), if_neg (hemits .main)]
  · intro e
    rw [hqdec, qdecAfter_eq, if_neg (hacc e)]
    cases e <;> rfl
  · exact fun c => (hrl c).trans (if_neg (hemits c))
  · intro i
    rw [hbt, btAfter, btnPoll_of_same_level (hline i)]
  · exact fun k => (hempty k).1.trans ((evValid_eq_zero_iff _).1 rfl k).symm
  · intro k
    rw [(hempty k).2]
    cases k <;> rfl
  · exact hstrobe
  · exact hnow

end

/-- Settles O30: where no CLK falls nothing is accepted, and the tick is quiet. -/
theorem quietRunTickFrame : Obligations.QuietRunTickFrame := by
  unfold Obligations.QuietRunTickFrame
  intro sample now s hrun hclk hline
  rw [exec_tick_run hrun, runTick_quiet (fun e => not_accepts_of_no_fall (hclk e)) hline]
  rfl

/-! ### Counter arithmetic (R112) -/

theorem addStep_toNat (a : Byte) (d : Int) : ((addStep a d).toNat : Int) = (a.toNat + d) % 256 := by
  rw [addStep, BitVec.toNat_ofInt]
  exact Int.toNat_of_nonneg (Int.emod_nonneg _ (by decide))

theorem addStep_zero (a : Byte) : addStep a 0 = a := by
  apply BitVec.eq_of_toNat_eq
  have hsum := addStep_toNat a 0
  omega

/-- Settles O36: the sum in the integers wraps at the two ends only, and the step bits stand for 1, -1 and 0. -/
theorem counterArithmeticWraps : Obligations.CounterArithmeticWraps := by
  unfold Obligations.CounterArithmeticWraps
  refine ⟨fun a d => addStep_toNat a (stepValue d), rfl, rfl, fun a ha => ?_, fun a ha => ?_,
    fun a => ⟨addStep_plus a, addStep_minus a, fun up => addStep_zero a⟩⟩
  · have hsum := addStep_toNat a 1
    have hne : a.toNat ≠ 255 := fun h => ha (BitVec.eq_of_toNat_eq h)
    omega
  · have hsum := addStep_toNat a (-1)
    have hne : a.toNat ≠ 0 := fun h => ha (BitVec.eq_of_toNat_eq h)
    omega

end Sys2Proof.Machine
end

section
/-! PROOFS. The exceptions family's statement (60_exceptions.md R117): every edge completes, no step faults, and the
configurations that R9 and R66 do not admit are refused when they are loaded. -/

namespace Sys2Proof

/-! ### Which raw configurations load (00_scope.md R9, 30_encoding.md R66) -/

theorem routeOfCode_eq_ok_iff {code : BitVec 3} {k : Option ButtonKind} :
    routeOfCode code = .ok k ↔ routeCode k = code := by
  constructor
  · intro h
    unfold routeOfCode at h
    split_ifs at h with h2 h3 h4 h5 h7 <;> cases h <;> exact Eq.symm ‹_›
  · rintro rfl
    exact routeOfCode_routeCode k

/-- The codes 0, 1 and 6 stand for no route member (R66). -/
theorem routeCode_admitted (k : Option ButtonKind) : routeCode k ≠ 0 ∧ routeCode k ≠ 1 ∧ routeCode k ≠ 6 := by
  rcases k with _ | ⟨_ | _ | _ | _⟩ <;> decide

/-- A button's route is accepted only from its own two codes. -/
theorem routeCode_of_routeOfCodes {press release : BitVec 3} {route : Route}
    (h : routeOfCodes press release = .ok route) :
    routeCode route.onPress = press ∧ routeCode route.onRelease = release := by
  unfold routeOfCodes at h
  split at h
  case h_1 p q hp hq =>
    cases h
    exact ⟨routeOfCode_eq_ok_iff.1 hp, routeOfCode_eq_ok_iff.1 hq⟩
  case h_2 => cases h
  case h_3 => cases h

/-- A configuration that loads is accepted and is the one its raw numbers say (R9, R66): every other raw configuration is
refused. -/
theorem rawConfig_of_loadConfig {r : RawConfig} {c : Config} (h : loadConfig r = .ok c) :
    c.accepted = true ∧ rawConfig c = r := by
  unfold loadConfig at h
  split at h
  case isTrue => cases h
  case isFalse hwarm =>
    have htoNat : (BitVec.ofNat 4 r.warm).toNat = r.warm := by
      rw [BitVec.toNat_ofNat]; omega
    split at h
    case h_1 r0 r1 h0 h1 =>
      cases h
      obtain ⟨hpress0, hrelease0⟩ := routeCode_of_routeOfCodes h0
      obtain ⟨hpress1, hrelease1⟩ := routeCode_of_routeOfCodes h1
      refine ⟨bne_iff_ne.2 fun hzero => ?_, ?_⟩
      · have hzeroNat : (BitVec.ofNat 4 r.warm).toNat = 0 := congrArg BitVec.toNat hzero
        omega
      · simp only [rawConfig, htoNat, hpress0, hrelease0, hpress1, hrelease1]
    case h_2 => cases h
    case h_3 => cases h

/-- Raw numbers that no accepted configuration has are refused. -/
theorem loadConfig_error_of_not_raw {r : RawConfig} (h : ∀ c : Config, c.accepted = true → rawConfig c ≠ r) :
    ∃ e, loadConfig r = .error e := by
  cases hload : loadConfig r with
  | error e => exact ⟨e, rfl⟩
  | ok c =>
    obtain ⟨haccepted, hraw⟩ := rawConfig_of_loadConfig hload
    exact absurd hraw (h c haccepted)

theorem rawConfig_warm_ne_zero {c : Config} (h : c.accepted = true) : (rawConfig c).warm ≠ 0 :=
  (BitVec.lt_def.1 (Machine.warm_pos_of_accepted h)).ne'

/-- Every code of an accepted configuration's raw numbers is the code of one of its route members. -/
theorem rawConfig_codes (c : Config) {code : BitVec 3}
    (h : code ∈ [(rawConfig c).onPress.b0, (rawConfig c).onPress.b1, (rawConfig c).onRelease.b0,
      (rawConfig c).onRelease.b1]) : ∃ k, code = routeCode k := by
  simp only [List.mem_cons, List.not_mem_nil, or_false] at h
  rcases h with h | h | h | h <;> exact ⟨_, h⟩

namespace Machine

/-! ### Steps on edges (R117) -/

/-- The next input word, given or free, is an edge, and an edge always decodes to an operation. -/
theorem step_completes {s : State} (ha : s.cfg.accepted = true) (he : edgesOnly s.stimulus = true) :
    ∃ t, step s = .next t := by
  match hs : s.stimulus with
  | [] => exact ⟨_, step_free s ha hs⟩
  | .edge e :: rest => exact ⟨_, (step_edge ha hs).trans (exec_decodeEdge e _)⟩
  | .record _ _ :: _ => rw [hs] at he; cases he

/-- Settles O12: an edge always decodes and every instruction answers a next state; `Fault` has no constructor; and what
loads is the raw form of an accepted configuration, whose `P_WARM` is not 0 and whose codes are those of route members. -/
theorem noFaultAndEveryEdgeCompletes : Obligations.NoFaultAndEveryEdgeCompletes := by
  unfold Obligations.NoFaultAndEveryEdgeCompletes
  refine ⟨fun s => step_completes, fun _ f => (nomatch f), fun r hwarm => ?_, fun r code hcode hmem => ?_⟩
  · apply loadConfig_error_of_not_raw
    rintro c haccepted rfl
    exact rawConfig_warm_ne_zero haccepted hwarm
  · apply loadConfig_error_of_not_raw
    rintro c - rfl
    obtain ⟨k, rfl⟩ := rawConfig_codes c hmem
    obtain ⟨h0, h1, h6⟩ := routeCode_admitted k
    rcases hcode with h | h | h
    · exact h0 h
    · exact h1 h
    · exact h6 h

end Machine

end Sys2Proof
end

section
/-! PROOFS. The reset and hazard family's statements (70_reset_and_hazards.md): the warm-up phase and its length (R131), a
fall accepted in it (R139), a clock that goes back (R133). -/

namespace Sys2Proof

/-! ### Ticks in a run of edges -/

theorem ticksIn_cons (e : Edge) (es : List Edge) : ticksIn (e :: es) = (if e.isTick then 1 else 0) + ticksIn es := by
  unfold ticksIn
  rw [List.filter_cons]
  split
  · exact Nat.add_comm _ _
  · exact (Nat.zero_add _).symm

theorem ticksIn_append_tick (es : List Edge) {e : Edge} (h : e.isTick = true) : ticksIn (es ++ [e]) = ticksIn es + 1 := by
  rw [ticksIn, List.filter_append, List.filter_cons_of_pos h, List.length_append]
  rfl

theorem Edge.noReset_of_isTick {e : Edge} (h : e.isTick = true) : e.noReset = true :=
  (Bool.and_eq_true_iff.1 h).1

namespace Machine

theorem edgeBlock_of_isTick {e : Edge} (h : e.isTick = true) (cfg : Config) (b : Block) :
    edgeBlock cfg e b = tickBlock cfg e.sample e.nowMs b := by
  rcases edgeBlock_noReset (cfg := cfg) (b := b) (Edge.noReset_of_isTick h) with ⟨-, he⟩ | ⟨hidle, -⟩
  · exact he
  · exact absurd (hidle.symm.trans h) Bool.false_ne_true

/-- A run of edges from a state whose block is named. -/
theorem runsTo_setBlock {s : State} (b : Block) (es : List Edge) (ha : s.cfg.accepted = true) :
    RunsTo (s.setBlock b) es (s.setBlock (edgesBlock s.cfg es b)) :=
  (runsTo_iff (s := s.setBlock b) es ha).2 rfl

/-- With the warm-up over, a tick strobes with its time (43_event_router.md R111). -/
theorem tickBlock_strobe {cfg : Config} {b : Block} (h : ¬ b.warm < cfg.warm) (sample : Sample) (now : Word) :
    (tickBlock cfg sample now b).lcTick = true ∧ (tickBlock cfg sample now b).lcNow = now := by
  rw [tickBlock, if_neg h]
  exact ⟨rfl, rfl⟩

/-! ### The length of the warm-up phase (R131, 10_state.md R43) -/

/-- No output is shown and no counter, limiter or press is set: what a block of the warm-up phase looks like. -/
structure Block.Quiet (b : Block) : Prop where
  silent : b.silent
  mainIdx : b.mainIdx = 0
  subIdx : b.subIdx = 0
  rl : ∀ c, (b.rl.get c).vld = false
  pressed : ∀ i, (b.bt.get i).pressed = false

theorem Block.quiet_cleared : Block.cleared.Quiet where
  silent := ⟨rfl, rfl, rfl, rfl⟩
  mainIdx := rfl
  subIdx := rfl
  rl c := by cases c <;> rfl
  pressed i := by cases i <;> rfl

theorem Block.Quiet.clearOutputs {b : Block} (h : b.Quiet) : (clearOutputs b).Quiet :=
  ⟨⟨rfl, rfl, rfl, rfl⟩, h.mainIdx, h.subIdx, h.rl, h.pressed⟩

/-- A warm-up tick discards its steps and leaves the buttons settled (43_event_router.md R103). -/
theorem Block.Quiet.warmTick {b : Block} (h : b.Quiet) (cfg : Config) (sample : Sample) (now : Word) :
    (warmTick cfg sample now b).Quiet := by
  obtain ⟨-, hmain, hsub, -, hrl, hbt, hsilent⟩ := warmTick_fields cfg sample now b
  exact ⟨hsilent, hmain.trans h.mainIdx, hsub.trans h.subIdx, fun c => hrl ▸ h.rl c, fun i => by rw [hbt]⟩

/-- The block after `n` ticks since `RESET`: `WARM` has counted them up to `P_WARM`, and up to there it is quiet. -/
structure Block.AfterTicks (cfg : Config) (n : Nat) (b : Block) : Prop where
  warm : b.warm.toNat = min n cfg.warm.toNat
  quiet : n ≤ cfg.warm.toNat → b.Quiet

section
variable {cfg : Config} {n : Nat} {b : Block}

theorem afterTicks_cleared (cfg : Config) : Block.cleared.AfterTicks cfg 0 :=
  ⟨(Nat.zero_min _).symm, fun _ => Block.quiet_cleared⟩

/-- The phase is told by the number of ticks (R102). -/
theorem Block.AfterTicks.warm_lt_iff (h : b.AfterTicks cfg n) : b.warm < cfg.warm ↔ n < cfg.warm.toNat := by
  rw [BitVec.lt_def, h.warm]
  omega

theorem Block.AfterTicks.tickBlock (h : b.AfterTicks cfg n) (sample : Sample) (now : Word) :
    (tickBlock cfg sample now b).AfterTicks cfg (n + 1) := by
  have hwarm := h.warm
  rcases tickBlock_cases cfg sample now b with ⟨hlt, e⟩ | ⟨hge, e⟩
  · obtain ⟨hcount, -⟩ := warmTick_fields cfg sample now b
    rw [e]
    rw [h.warm_lt_iff] at hlt
    exact ⟨by rw [hcount]; bv_omega, fun _ => (h.quiet hlt.le).warmTick cfg sample now⟩
  · obtain ⟨hkeep, -⟩ := runTick_fields cfg sample now b
    rw [e]
    rw [h.warm_lt_iff] at hge
    exact ⟨by rw [hkeep]; omega, fun hle => absurd hle hge⟩

theorem Block.AfterTicks.edgeBlock (h : b.AfterTicks cfg n) {e : Edge} (he : e.noReset = true) :
    (edgeBlock cfg e b).AfterTicks cfg (n + if e.isTick then 1 else 0) := by
  rcases edgeBlock_noReset (cfg := cfg) (b := b) he with ⟨htick, heq⟩ | ⟨hidle, heq⟩ <;> rw [heq]
  · rw [if_pos htick]
    exact h.tickBlock _ _
  · rw [hidle]
    exact ⟨h.warm, fun hle => (h.quiet hle).clearOutputs⟩

/-- Idle edges leave the count and the quiet as they are, so only the ticks of a run advance it; by induction on the
edges. -/
theorem Block.AfterTicks.edgesBlock (h : b.AfterTicks cfg n) {es : List Edge} (hes : ∀ e ∈ es, e.noReset = true) :
    (edgesBlock cfg es b).AfterTicks cfg (n + ticksIn es) := by
  induction es generalizing n b with
  | nil => exact h
  | cons e es ih =>
    obtain ⟨he, hes⟩ := List.forall_mem_cons.1 hes
    rw [ticksIn_cons, ← Nat.add_assoc]
    exact ih (h.edgeBlock he) hes

end

/-- After `RESET` and any edges, the ticks among them say what the block is. -/
theorem afterTicks_edgesBlock_cleared (cfg : Config) {es : List Edge} (hes : ∀ e ∈ es, e.noReset = true) :
    (edgesBlock cfg es Block.cleared).AfterTicks cfg (ticksIn es) :=
  Nat.zero_add (ticksIn es) ▸ (afterTicks_cleared cfg).edgesBlock hes

/-- A last edge that is a tick, with at least `P_WARM` ticks before it, strobes with its time. -/
theorem edgesBlock_cleared_strobe {cfg : Config} {es : List Edge} {e : Edge} (hes : ∀ x ∈ es, x.noReset = true)
    (hgt : cfg.warm.toNat < ticksIn es) (hlast : es.getLast? = some e) (htick : e.isTick = true) :
    (edgesBlock cfg es Block.cleared).lcTick = true ∧ (edgesBlock cfg es Block.cleared).lcNow = e.nowMs := by
  obtain ⟨pre, rfl⟩ := List.getLast?_eq_some_iff.1 hlast
  have hpre := afterTicks_edgesBlock_cleared cfg fun x hx => hes x (List.mem_append_left [e] hx)
  rw [ticksIn_append_tick pre htick] at hgt
  have hrun : ¬ (edgesBlock cfg pre Block.cleared).warm < cfg.warm := by
    rw [hpre.warm_lt_iff]
    omega
  rw [edgesBlock_append, edgesBlock, edgesBlock, edgeBlock_of_isTick htick]
  exact tickBlock_strobe hrun e.sample e.nowMs

/-- Settles O21: the ticks since `RESET` are counted by an invariant of the edges, and the tick after the last warm-up tick
finds `WARM` at `P_WARM`. -/
theorem warmUpLastsExactlyPWarmTicks : Obligations.WarmUpLastsExactlyPWarmTicks := by
  unfold Obligations.WarmUpLastsExactlyPWarmTicks
  intro cfg es ha hes
  have hafter := afterTicks_edgesBlock_cleared cfg hes
  refine ⟨_, (runsTo_iff (s := State.fresh cfg) es ha).2 rfl, hafter.warm, fun hle => ?_, fun hgt e hlast htick => ?_⟩
  · obtain ⟨hsilent, hmain, hsub, hrl, hpressed⟩ := hafter.quiet hle
    exact ⟨hsilent, hmain, hsub, hrl, hpressed⟩
  · exact edgesBlock_cleared_strobe hes hgt hlast htick

/-! ### A fall accepted in the warm-up phase (R139, 40_quadrature_decoder.md R76, R79, R80) -/

/-- In `b`, past the settling read, channel c's decoder accepted its last transition at `now`, and since `b0` the channel
has emitted nothing: its slot is empty, its limiter and its counter are as in `b0`, but that a main step may have reset
`SUB_IDX` (43_event_router.md R106). -/
structure Block.SilentSince (b : Block) (c : Chan) (now : Word) (b0 : Block) : Prop where
  warm : b.warm ≠ 0
  accVld : (b.qdec.get c).accVld = true
  accTs : (b.qdec.get c).accTs = now
  rl : b.rl.get c = b0.rl.get c
  empty : b.valid (chanSlot c) = false
  mainIdx : c = .main → b.mainIdx = b0.mainIdx
  subIdx : c = .sub → b.subIdx = b0.subIdx ∨ b.subIdx = 0

section
variable {cfg : Config} {c : Chan} {sample : Sample} {now : Word} {b b0 : Block}

/-- Past the settling read every tick polls the decoder. -/
theorem tickBlock_qdec (h : b.warm ≠ 0) :
    (tickBlock cfg sample now b).qdec.get c = qdecAfter cfg sample now b c := by
  rcases tickBlock_cases cfg sample now b with ⟨-, e⟩ | ⟨-, e⟩ <;> rw [e]
  · obtain ⟨-, -, -, hqdec, -⟩ := warmTick_fields cfg sample now b
    rw [hqdec, qdecWarm, if_neg h]
  · obtain ⟨-, -, -, hqdec, -⟩ := runTick_fields cfg sample now b
    exact hqdec c

/-- Counting up to `P_WARM` does not wrap. -/
theorem tickBlock_warm_ne_zero (h : b.warm ≠ 0) : (tickBlock cfg sample now b).warm ≠ 0 := by
  rw [tickBlock_warm]
  split
  · bv_omega
  · exact h

/-- Without a step of its own, `SUB_IDX` is kept or reset by a main step (43_event_router.md R106). -/
theorem tickBlock_subIdx_of_not_emits (h : ¬ Emits cfg .sub sample now b) :
    (tickBlock cfg sample now b).subIdx = b.subIdx ∨ (tickBlock cfg sample now b).subIdx = 0 := by
  rcases tickBlock_cases cfg sample now b with ⟨-, e⟩ | ⟨-, e⟩ <;> rw [e]
  · obtain ⟨-, -, hsub, -⟩ := warmTick_fields cfg sample now b
    exact .inl hsub
  · obtain ⟨-, -, hsub, -⟩ := runTick_fields cfg sample now b
    rw [hsub, subAfter_of_not_emits h]
    split
    · exact .inr rfl
    · exact .inl rfl

/-- A tick at which the channel emits nothing shows nothing in its slot and keeps its limiter. -/
theorem tickBlock_quiet_chan (h : ¬ Emits cfg c sample now b) :
    (tickBlock cfg sample now b).valid (chanSlot c) = false ∧
      (tickBlock cfg sample now b).rl.get c = b.rl.get c := by
  rcases tickBlock_emits_or_keeps_rl (cfg := cfg) (b := b) (c := c) sample now with ⟨-, hemits, -⟩ | hkeeps
  · exact absurd hemits h
  · exact hkeeps

/-- An accepted transition stores the tick's time (40_quadrature_decoder.md R79). -/
theorem tickBlock_accTs_of_accepts (hw : b.warm ≠ 0) (h : Accepts cfg c sample now b) :
    ((tickBlock cfg sample now b).qdec.get c).accVld = true ∧
      ((tickBlock cfg sample now b).qdec.get c).accTs = now := by
  rw [tickBlock_qdec hw, qdecAfter_eq, if_pos h]
  exact ⟨rfl, rfl⟩

/-- A run tick at which the channel emits shows a record in its slot. -/
theorem tickBlock_valid_of_emits (hrun : ¬ b.warm < cfg.warm) (h : Emits cfg c sample now b) :
    (tickBlock cfg sample now b).valid (chanSlot c) = true := by
  obtain ⟨-, -, -, -, -, -, hvalid, -⟩ := runTick_fields cfg sample now b
  rw [tickBlock, if_neg hrun, hvalid]
  exact (slotAfter_chanSlot_isSome sample now).2 h

/-- The warm-up tick that accepts the fall discards the step (43_event_router.md R103). -/
theorem silentSince_warmTick (hw : b.warm ≠ 0) (hlt : b.warm < cfg.warm) (h : Accepts cfg c sample now b) :
    (warmTick cfg sample now b).SilentSince c now b := by
  have htick : tickBlock cfg sample now b = warmTick cfg sample now b := if_pos hlt
  obtain ⟨-, hmain, hsub, -, hrl, -⟩ := warmTick_fields cfg sample now b
  obtain ⟨hvld, hts⟩ := tickBlock_accTs_of_accepts hw h
  have hwarm : (tickBlock cfg sample now b).warm ≠ 0 := tickBlock_warm_ne_zero hw
  rw [htick] at hvld hts hwarm
  exact ⟨hwarm, hvld, hts, by rw [hrl], clearOutputs_valid _ _, fun _ => hmain, fun _ => .inl hsub⟩

/-- Inside the window nothing is accepted (40_quadrature_decoder.md R76). -/
theorem Block.SilentSince.not_accepts {t : Word} (h : b.SilentSince c t b0) (hin : elapsed now t < cfg.debMs) :
    ¬ Accepts cfg c sample now b := by
  rintro ⟨hclosed, -⟩
  rw [h.accVld, h.accTs] at hclosed
  exact BitVec.not_le.2 hin (hclosed.resolve_left nofun)

/-- A tick inside the window leaves the channel silent: a fall there is consumed (R80). -/
theorem Block.SilentSince.tickBlock {t : Word} (h : b.SilentSince c t b0) (hin : elapsed now t < cfg.debMs) :
    (tickBlock cfg sample now b).SilentSince c t b0 := by
  have hacc : ¬ Accepts cfg c sample now b := h.not_accepts hin
  have hemits : ¬ Emits cfg c sample now b := fun hemits => hacc hemits.1
  obtain ⟨hempty, hrl⟩ := tickBlock_quiet_chan hemits
  have hqdec : (Machine.tickBlock cfg sample now b).qdec.get c =
      { b.qdec.get c with clk := clkLevel c sample, dt := dtLevel c sample } := by
    rw [tickBlock_qdec h.warm, qdecAfter_eq, if_neg hacc]
  refine ⟨tickBlock_warm_ne_zero h.warm, ?_, ?_, hrl.trans h.rl, hempty, ?_, ?_⟩
  · rw [hqdec]; exact h.accVld
  · rw [hqdec]; exact h.accTs
  · rintro rfl
    rw [← h.mainIdx rfl]
    by_contra hmoved
    exact Bool.false_ne_true (hempty.symm.trans (tickBlock_mainIdx_moves hmoved).1)
  · rintro rfl
    rcases tickBlock_subIdx_of_not_emits hemits with hkeep | hzero
    · rw [hkeep]; exact h.subIdx rfl
    · exact .inr hzero

/-- So does an idle edge, and so any edges whose ticks lie inside the window, by induction on them. -/
theorem Block.SilentSince.edgesBlock {t : Word} {es : List Edge} (h : b.SilentSince c t b0)
    (hes : ∀ x ∈ es, x.noReset = true ∧ (x.isTick = true → elapsed x.nowMs t < cfg.debMs)) :
    (edgesBlock cfg es b).SilentSince c t b0 := by
  induction es generalizing b with
  | nil => exact h
  | cons e es ih =>
    obtain ⟨⟨he, hin⟩, hes⟩ := List.forall_mem_cons.1 hes
    refine ih (b := edgeBlock cfg e b) ?_ hes
    rcases edgeBlock_noReset (cfg := cfg) (b := b) he with ⟨htick, heq⟩ | ⟨-, heq⟩ <;> rw [heq]
    · exact h.tickBlock (hin htick)
    · exact ⟨h.warm, h.accVld, h.accTs, h.rl, clearOutputs_valid _ _, h.mainIdx, h.subIdx⟩

/-- At `P_DEB_MS` or more after the accepted fall, with CLK stored high, the next fall is accepted. -/
theorem Block.SilentSince.accepts {t : Word} (h : b.SilentSince c t b0) (hout : cfg.debMs ≤ elapsed now t)
    (hclk : (b.qdec.get c).clk = true) (hfall : clkLevel c sample = false) : Accepts cfg c sample now b :=
  ⟨.inr (h.accTs ▸ hout), hclk, hfall⟩

end

/-- Settles O22: the warm-up tick leaves the channel silent since the fall, the edges inside the window keep it so, and the
last tick falls inside the window or outside it. -/
theorem warmUpFallOpensTheWindow : Obligations.WarmUpFallOpensTheWindow := by
  unfold Obligations.WarmUpFallOpensTheWindow
  intro c s sample now es e ha hw hlt hacc hes htick hfall
  obtain ⟨-, -, -, -, -, -, hsilent⟩ := warmTick_fields s.cfg sample now s.block
  have hu := (silentSince_warmTick hw hlt hacc).edgesBlock hes
  have hphase {b : Block} (hend : b.warm = s.cfg.warm) : ¬ b.warm < s.cfg.warm := hend ▸ BitVec.lt_irrefl _
  refine ⟨_, _, _, exec_tick_warm hlt, runsTo_setBlock _ es ha, runsTo_setBlock _ [e] ha, hsilent, hu.empty,
    fun hclk => ?_⟩
  rw [State.setBlock_block] at hclk
  rw [State.setBlock_block, State.setBlock_block, edgesBlock, edgesBlock, edgeBlock_of_isTick htick]
  refine ⟨fun hin => ?_, fun hout => ?_⟩
  · have hv := hu.tickBlock (sample := e.sample) hin
    exact ⟨hv.empty, hv.accTs, hv.mainIdx, hv.subIdx, fun hend => (tickBlock_strobe (hphase hend) _ _).1⟩
  · have hacc' := hu.accepts hout hclk hfall
    exact ⟨(tickBlock_accTs_of_accepts hu.warm hacc').2,
      fun hend hrl => tickBlock_valid_of_emits (hphase hend) ⟨hacc', .inl (hu.rl ▸ hrl)⟩⟩

/-! ### A clock that goes back (R133, 00_scope.md R16) -/

/-- Going back by `delta` looks like `2^32 - delta` ms having passed. -/
theorem le_elapsed_of_clock_back {ts delta w : Word} (hdelta : delta ≠ 0) (hw : w.toNat + delta.toNat ≤ 2 ^ 32) :
    w ≤ elapsed (ts - delta) ts := by
  rw [BitVec.le_def, elapsed_toNat, BitVec.toNat_sub]
  have hpos : delta.toNat ≠ 0 := fun h => hdelta (BitVec.eq_of_toNat_eq h)
  omega

/-- Settles O37: each test passes because the whole window seems to have passed. -/
theorem backwardsClockExpiresTheWindows : Obligations.BackwardsClockExpiresTheWindows := by
  unfold Obligations.BackwardsClockExpiresTheWindows
  intro ts delta w hdelta hw
  have hle : w ≤ elapsed (ts - delta) ts := le_elapsed_of_clock_back hdelta hw
  refine ⟨fun q hq => ?_, fun r hr => ?_, fun r hr => ?_⟩
  · exact (windowOpen_eq_false_iff w q _).2 (.inr (hq ▸ hle))
  · exact (cooldownPasses_iff w r _).2 (.inr (hr ▸ hle))
  · exact (rlAllow_iff w r _).2 (.inr (hr ▸ hle))

end Machine

end Sys2Proof
end

section
/-! PROOFS. The rest of the encodings (30_encoding.md): decoding and encoding undo each other, for instructions (R59, R62,
R63) and for configurations (00_scope.md R9, R66), and words written out decode to their operation. -/

namespace Sys2Proof

/-! ### From an instruction to its word and back (R59, R62, R63) -/

theorem decode_encode (i : Instr) : decode (encode i) = .ok i := by
  cases i with
  | reset lostTick => exact Laws.RoundTrip.reset lostTick
  | tick sample nowMs => exact Laws.RoundTrip.tick sample nowMs
  | idle => exact Laws.RoundTrip.idle
  | evMainRotate m u n => exact Laws.RoundTrip.evMainRotate m u n
  | evSubRotate m u n => exact Laws.RoundTrip.evSubRotate m u n
  | evConfirm b m u n => exact Laws.RoundTrip.evConfirm b m u n
  | evCancel b m u n => exact Laws.RoundTrip.evCancel b m u n
  | evAiPress b m u n => exact Laws.RoundTrip.evAiPress b m u n
  | evAiRelease b m u n => exact Laws.RoundTrip.evAiRelease b m u n

/-- Settles O1: the round trip of each row. -/
theorem decodeOfEncodeIsTheInstruction : Obligations.DecodeOfEncodeIsTheInstruction := by
  unfold Obligations.DecodeOfEncodeIsTheInstruction
  exact decode_encode

/-! ### From a word to its instruction and back -/

/-- The fields of a record, packed with the ordinal of its kind, are the record. -/
theorem encodeEvent_fields {r : Record} {kind : Kind} (h : Kind.ofOrdinal (recordType r) = some kind) (k : Slot) :
    encodeEvent kind k (recordMain r) (recordSub r) (recordTime r) = .record k r := by
  rw [encodeEvent, Kind.ordinal_of_ofOrdinal h, packRecord_fields]

theorem encode_buttonEvent (kind : ButtonKind) (b : Btn) (m u : Byte) (n : Word) :
    encode (buttonEvent kind b m u n) = encodeEvent (.button kind) b.slot m u n := by
  cases kind <;> rfl

/-- A record decodes only in a slot of its kind, and to the row of its kind and fields. -/
theorem encode_of_decodeRecord {k : Slot} {r : Record} {i : Instr} (h : decodeRecord k r = .ok i) :
    encode i = .record k r := by
  unfold decodeRecord at h
  split at h
  case h_1 => cases h
  case h_2 hkind =>
    split_ifs at h with hk
    cases h
    exact hk ▸ encodeEvent_fields hkind .s0
  case h_3 hkind =>
    split_ifs at h with hk
    cases h
    exact hk ▸ encodeEvent_fields hkind .s1
  case h_4 kind hkind =>
    split at h
    case h_1 b hb =>
      cases h
      rw [encode_buttonEvent, encodeEvent_fields hkind, Slot.slot_of_btn? hb]
    case h_2 => cases h

/-- Only the control word 1 is a `TICK`, and it keeps both ports (R59). -/
theorem encode_of_decodeEdge_tick {e : Edge} {sample : Sample} {now : Word} (h : decodeEdge e = .tick sample now) :
    encode (.tick sample now) = .edge e := by
  unfold decodeEdge at h
  split at h
  case h_1 => cases h
  case h_2 hrst htick =>
    cases h
    have hctl : e.ctl = BitVec.ofBool false ++ BitVec.ofBool true := by
      revert hrst htick
      generalize e.ctl = v
      revert v
      decide
    rw [encode, encodeEdge, ← hctl]
  case h_3 => cases h

/-- Settles O2: no bit of a record or of a `TICK` edge is left out of the instruction it decodes to. -/
theorem encodeOfDecodedWordIsTheWord : Obligations.EncodeOfDecodedWordIsTheWord := by
  unfold Obligations.EncodeOfDecodedWordIsTheWord
  exact ⟨fun _ _ _ h => encode_of_decodeRecord h, fun _ _ _ h => encode_of_decodeEdge_tick (Except.ok.inj h)⟩

/-- Settles O3: each word is the layout's own (R59, R60, R62, R63, R72), so decoding it computes. -/
theorem writtenOutWordsDecode : Obligations.WrittenOutWordsDecode := by
  unfold Obligations.WrittenOutWordsDecode
  exact ⟨rfl, rfl, rfl, rfl, rfl, rfl, rfl, rfl, rfl, rfl⟩

/-! ### From a configuration to its raw numbers and back (00_scope.md R9, R66) -/

theorem routeOfCodes_routeCode (r : Route) : routeOfCodes (routeCode r.onPress) (routeCode r.onRelease) = .ok r := by
  simp only [routeOfCodes, routeOfCode_routeCode]

theorem loadConfig_rawConfig {c : Config} (h : c.accepted = true) : loadConfig (rawConfig c) = .ok c := by
  have hpos : (rawConfig c).warm ≠ 0 := rawConfig_warm_ne_zero h
  have hlt : (rawConfig c).warm < 2 ^ 4 := c.warm.isLt
  have hwarm : ¬ ((rawConfig c).warm < 1 ∨ 15 < (rawConfig c).warm) := by omega
  rw [loadConfig, if_neg hwarm]
  simp [rawConfig, routeOfCodes_routeCode]

/-- Every code but 0, 1 and 6 is the code of a route member. -/
theorem exists_routeCode {code : BitVec 3} (h : code ≠ 0 ∧ code ≠ 1 ∧ code ≠ 6) : ∃ k, routeCode k = code := by
  obtain ⟨h0, h1, h6⟩ := h
  have hcases : code = 2 ∨ code = 3 ∨ code = 4 ∨ code = 5 ∨ code = 7 := by
    revert code
    decide
  rcases hcases with rfl | rfl | rfl | rfl | rfl
  · exact ⟨some .confirm, rfl⟩
  · exact ⟨some .cancel, rfl⟩
  · exact ⟨some .aiPress, rfl⟩
  · exact ⟨some .aiRelease, rfl⟩
  · exact ⟨none, rfl⟩

/-- Numbers within R9 and R66 are those of an accepted configuration. -/
theorem exists_rawConfig {r : RawConfig} (h1 : 1 ≤ r.warm) (h15 : r.warm ≤ 15)
    (hcodes : ∀ code ∈ [r.onPress.b0, r.onPress.b1, r.onRelease.b0, r.onRelease.b1],
      code ≠ 0 ∧ code ≠ 1 ∧ code ≠ 6) : ∃ c : Config, c.accepted = true ∧ rawConfig c = r := by
  obtain ⟨debMs, coolMs, rateMs, warm, ⟨press0, press1⟩, release0, release1⟩ := r
  simp only [List.forall_mem_cons] at hcodes
  obtain ⟨hpress0, hpress1, hrelease0, hrelease1, -⟩ := hcodes
  obtain ⟨p0, rfl⟩ := exists_routeCode hpress0
  obtain ⟨p1, rfl⟩ := exists_routeCode hpress1
  obtain ⟨r0, rfl⟩ := exists_routeCode hrelease0
  obtain ⟨r1, rfl⟩ := exists_routeCode hrelease1
  have htoNat : (BitVec.ofNat 4 warm).toNat = warm := Nat.mod_eq_of_lt (Nat.lt_succ_of_le h15)
  refine ⟨⟨debMs, coolMs, rateMs, BitVec.ofNat 4 warm, ⟨p0, r0⟩, ⟨p1, r1⟩⟩, bne_iff_ne.2 fun hzero => ?_, ?_⟩
  · have hzeroNat : warm = 0 := htoNat.symm.trans (congrArg BitVec.toNat hzero)
    exact Nat.ne_of_gt h1 hzeroNat
  · rw [rawConfig, htoNat]

/-- Settles O9: what loads is the raw form of an accepted configuration, and the numbers within R9 and R66 are these raw
forms. -/
theorem configurationsAreAdmittedOrRefused : Obligations.ConfigurationsAreAdmittedOrRefused := by
  unfold Obligations.ConfigurationsAreAdmittedOrRefused
  refine ⟨fun r => ⟨?_, ?_⟩, fun r c => rawConfig_of_loadConfig, fun c => loadConfig_rawConfig⟩
  · rintro ⟨c, hload⟩
    obtain ⟨haccepted, rfl⟩ := rawConfig_of_loadConfig hload
    refine ⟨Nat.pos_of_ne_zero (rawConfig_warm_ne_zero haccepted), Nat.le_of_lt_succ c.warm.isLt, fun code hcode => ?_⟩
    obtain ⟨k, rfl⟩ := rawConfig_codes c hcode
    exact routeCode_admitted k
  · rintro ⟨h1, h15, hcodes⟩
    obtain ⟨c, haccepted, rfl⟩ := exists_rawConfig h1 h15 hcodes
    exact ⟨c, loadConfig_rawConfig haccepted⟩

end Sys2Proof
end

section
/-! PROOFS. The step and the event rows: a step runs the decoded instruction (43_event_router.md R116), and an event row
places its own record in its slot (R110, log 4). -/

namespace Sys2Proof.Machine

/-! ### The step (30_encoding.md R59) -/

theorem fetch_of_cons {s : State} {x : Stimulus} {rest : List Stimulus} (hs : s.stimulus = x :: rest) :
    fetch s = (x, { s with stimulus := rest }) := by
  rw [fetch, hs]; rfl

/-- With no word left the edge is free (log 3). -/
theorem fetch_of_nil {s : State} (hs : s.stimulus = []) :
    fetch s = (.edge ⟨Config.freeCtl s.freeEdges, Config.freeSample s.freeEdges, Config.freeNow s.freeEdges⟩,
      { s with freeEdges := s.freeEdges + 1 }) := by
  rw [fetch, hs]

theorem step_of_fetch {s s' : State} {x : Stimulus} {i : Instr} (ha : s.cfg.accepted = true) (hf : fetch s = (x, s'))
    (hd : decode x = .ok i) : step s = exec i s' := by
  simp only [step, ha, hf, hd, if_true]

/-- Settles O10: the step on a given word, on the free edge, on a word without meaning and under `P_WARM` = 0. -/
theorem stepRunsTheDecodedInstruction : Obligations.StepRunsTheDecodedInstruction := by
  unfold Obligations.StepRunsTheDecodedInstruction
  refine ⟨fun s x rest i ha hs hd => ?_, fun s i ha hs hd => ?_, fun s x rest e ha hs hd => ?_, fun s hwarm => ?_⟩
  · exact step_of_fetch ha (fetch_of_cons hs) hd
  · exact step_of_fetch ha (fetch_of_nil hs) hd
  · exact step_decode_error ha hs hd
  · have ha : s.cfg.accepted = false := by rw [Config.accepted, hwarm]; rfl
    exact step_refused ha

/-! ### The event rows (43_event_router.md R110, log 4) -/

/-- An event row emits the record that it is encoded as, in the slot it is encoded for. -/
theorem exec_of_encode_record {i : Instr} {k : Slot} {r : Record} (h : encode i = .record k r) (s : State) :
    exec i s = .next (s.setBlock (emit k (some r) s.block)) := by
  cases i with
  | reset _ | tick _ _ | idle => cases h
  | _ => cases h; rfl

/-- Settles O32: slots 0 and 1 are the rotation rows' own. -/
theorem rotationRowsPlaceTheirRecord : Obligations.RotationRowsPlaceTheirRecord := by
  unfold Obligations.RotationRowsPlaceTheirRecord
  exact fun m u n s => ⟨exec_of_encode_record (i := .evMainRotate m u n) rfl s,
    exec_of_encode_record (i := .evSubRotate m u n) rfl s⟩

/-- Settles O33: a button kind is encoded in its button's slot. -/
theorem buttonRowsPlaceTheirRecord : Obligations.ButtonRowsPlaceTheirRecord := by
  unfold Obligations.ButtonRowsPlaceTheirRecord
  exact fun kind m u n s => ⟨exec_of_encode_record (encode_buttonEvent kind .b0 m u n) s,
    exec_of_encode_record (encode_buttonEvent kind .b1 m u n) s⟩

/-- So the slot shows the row's encoding, which decodes to the row. -/
theorem exec_readBack {i : Instr} {k : Slot} {r : Record} (h : encode i = .record k r) (s : State) :
    ∃ t, exec i s = .next t ∧ t.block.valid k = true ∧ decode (.record k (t.block.evSlot.get k)) = .ok i := by
  refine ⟨_, exec_of_encode_record h s, ?_, ?_⟩
  · rw [State.setBlock_block, emit_valid, if_pos rfl, Option.isSome_some]
  · rw [State.setBlock_block, emit_slot, PerSlot.get_set, if_pos rfl, Option.getD_some, ← h, decode_encode]

/-- Settles O34: each of the six rows is encoded as a record. -/
theorem eventRowsAreReadBackFromTheirSlot : Obligations.EventRowsAreReadBackFromTheirSlot := by
  unfold Obligations.EventRowsAreReadBackFromTheirSlot
  exact fun b m u n s => ⟨exec_readBack rfl s, exec_readBack rfl s, exec_readBack rfl s, exec_readBack rfl s,
    exec_readBack rfl s, exec_readBack rfl s⟩

end Sys2Proof.Machine
end

section
/-! PROOFS. The state invariant of Safety.lean (10_state.md R42, R43): the reset state meets it and every step on an edge
keeps it. -/

namespace Sys2Proof.Machine

/-! ### The invariant of the registers (10_state.md R22 to R34) -/

/-- What the invariant says of the registers that are no outputs: all it says of a block that shows none. -/
structure Block.RegistersInv (cfg : Config) (b : Block) : Prop where
  warm_le : b.warm ≤ cfg.warm
  pressed_line : ∀ i, (b.bt.get i).pressed = true → (b.bt.get i).line = true
  acc_unset : ∀ e, (b.qdec.get e).accVld = false → (b.qdec.get e).accTs = 0
  rl_unset : ∀ c, (b.rl.get c).vld = false → (b.rl.get c).ts = 0
  rel_unset : ∀ i, (b.bt.get i).relVld = false → (b.bt.get i).relTs = 0
  emitted_accepted : ∀ c, (b.rl.get c).vld = true → (b.qdec.get c).accVld = true
  untouched : b.warm = 0 →
    b.qdec = ⟨QdecRegs.cleared, QdecRegs.cleared⟩ ∧ b.bt = ⟨ButtonRegs.cleared, ButtonRegs.cleared⟩
  warm_quiet : b.warm < cfg.warm →
    b.mainIdx = 0 ∧ b.subIdx = 0 ∧ b.rl = ⟨RateRegs.cleared, RateRegs.cleared⟩ ∧
    ∀ i, (b.bt.get i).pressed = false ∧ (b.bt.get i).relVld = false

section
variable {cfg : Config} {b : Block}

theorem Block.Inv.registers (h : b.Inv cfg) : b.RegistersInv cfg where
  warm_le := h.warm_le
  pressed_line := h.pressed_line
  acc_unset := h.acc_unset
  rl_unset := h.rl_unset
  rel_unset := h.rel_unset
  emitted_accepted := h.emitted_accepted
  untouched := h.untouched
  warm_quiet hlt := by
    obtain ⟨hmain, hsub, hrl, hbt, -⟩ := h.warm_quiet hlt
    exact ⟨hmain, hsub, hrl, hbt⟩

/-- Without a valid slot and a strobe, the claims about the outputs hold for want of an output. -/
theorem Block.RegistersInv.inv_of_silent (h : b.RegistersInv cfg) (hsilent : b.silent) : b.Inv cfg := by
  have ⟨hzero, hslots, _, hnow⟩ := hsilent
  have hempty (k : Slot) : ¬ b.valid k = true := Bool.not_eq_true _ ▸ (evValid_eq_zero_iff b).1 hzero k
  refine ⟨h.warm_le, h.pressed_line, h.acc_unset, h.rl_unset, h.rel_unset, h.emitted_accepted, h.untouched,
    fun hlt => ?_, fun k _ => ?_, fun hne => absurd hzero hne, fun _ => hnow, fun hv => absurd hv (hempty .s0),
    fun hv => absurd hv (hempty .s1), fun i hv => absurd hv (hempty i.slot)⟩
  · obtain ⟨hmain, hsub, hrl, hbt⟩ := h.warm_quiet hlt
    exact ⟨hmain, hsub, hrl, hbt, hsilent⟩
  · rw [hslots]
    cases k <;> rfl

/-! ### RESET and IDLE (43_event_router.md R100, R101) -/

theorem Block.registersInv_cleared (cfg : Config) : Block.cleared.RegistersInv cfg where
  warm_le := Nat.zero_le _
  pressed_line i := by cases i <;> exact nofun
  acc_unset e _ := by cases e <;> rfl
  rl_unset c _ := by cases c <;> rfl
  rel_unset i _ := by cases i <;> rfl
  emitted_accepted c := by cases c <;> exact nofun
  untouched _ := ⟨rfl, rfl⟩
  warm_quiet _ := ⟨rfl, rfl, rfl, fun i => by cases i <;> exact ⟨rfl, rfl⟩⟩

theorem Block.inv_cleared (cfg : Config) : Block.cleared.Inv cfg :=
  (Block.registersInv_cleared cfg).inv_of_silent ⟨rfl, rfl, rfl, rfl⟩

theorem Block.RegistersInv.clearOutputs (h : b.RegistersInv cfg) : (clearOutputs b).RegistersInv cfg :=
  ⟨h.warm_le, h.pressed_line, h.acc_unset, h.rl_unset, h.rel_unset, h.emitted_accepted, h.untouched, h.warm_quiet⟩

theorem Block.Inv.clearOutputs (h : b.Inv cfg) : (clearOutputs b).Inv cfg :=
  h.registers.clearOutputs.inv_of_silent ⟨rfl, rfl, rfl, rfl⟩

end

/-- Settles O51: both states hold the cleared block and no input word. -/
theorem resetMeetsTheInvariant : Obligations.ResetMeetsTheInvariant := by
  unfold Obligations.ResetMeetsTheInvariant
  exact ⟨⟨rfl, rfl, Block.inv_cleared Config.default⟩, fun cfg ha => ⟨ha, rfl, Block.inv_cleared cfg⟩⟩

/-! ### What a tick keeps of each unit's registers -/

section
variable {cfg : Config} {sample : Sample} {now : Word} {b : Block}

/-- A poll writes the accepted time only with its valid bit, and never clears that bit (40_quadrature_decoder.md R79). -/
theorem qdecAfter_keeps_accVld {e : Chan} (h : (b.qdec.get e).accVld = true) :
    (qdecAfter cfg sample now b e).accVld = true := by
  rw [qdecAfter_eq]
  split
  · rfl
  · exact h

theorem qdecAfter_acc_unset {e : Chan} (h : (b.qdec.get e).accVld = false → (b.qdec.get e).accTs = 0) :
    (qdecAfter cfg sample now b e).accVld = false → (qdecAfter cfg sample now b e).accTs = 0 := by
  rw [qdecAfter_eq]
  split
  · exact nofun
  · exact h

/-- The settling read writes the levels only (40_quadrature_decoder.md R74). -/
theorem qdecWarm_acc_unset {e : Chan} (h : (b.qdec.get e).accVld = false → (b.qdec.get e).accTs = 0) :
    (qdecWarm cfg sample now b e).accVld = false → (qdecWarm cfg sample now b e).accTs = 0 := by
  unfold qdecWarm
  split
  · exact h
  · exact qdecAfter_acc_unset h

theorem qdecAfter_of_accepts {e : Chan} (h : Accepts cfg e sample now b) :
    qdecAfter cfg sample now b e = ⟨false, dtLevel e sample, now, true⟩ := by
  rw [qdecAfter_eq, if_pos h]

theorem rlAfter_unset {c : Chan} (h : (b.rl.get c).vld = false → (b.rl.get c).ts = 0) :
    (rlAfter cfg sample now b c).vld = false → (rlAfter cfg sample now b c).ts = 0 := by
  unfold rlAfter
  split
  · exact nofun
  · exact h

/-- A channel that emits at this tick accepts at this tick (43_event_router.md R105, R107). -/
theorem rlAfter_emitted_accepted {c : Chan} (h : (b.rl.get c).vld = true → (b.qdec.get c).accVld = true) :
    (rlAfter cfg sample now b c).vld = true → (qdecAfter cfg sample now b c).accVld = true := by
  unfold rlAfter
  split
  case isTrue hemits => exact fun _ => by rw [qdecAfter_of_accepts hemits.1]
  case isFalse => exact fun hvld => qdecAfter_keeps_accVld (h hvld)

/-- A pressed button that stays pressed has an active line: its fall would be a release (41_edge_button.md R89). -/
theorem btnPoll_pressed_line {coolMs : Word} {a : Bool} {r : ButtonRegs} (h : r.pressed = true → r.line = true) :
    (btnPoll coolMs a now r).2.pressed = true → (btnPoll coolMs a now r).2.line = true := by
  rcases btnPoll_cases coolMs a now r with ⟨-, e⟩ | ⟨-, e⟩ | ⟨-, hrelease, e⟩ <;> rw [e]
  · exact fun _ => rfl
  · exact nofun
  · intro hp
    by_contra ha
    exact hrelease ⟨Bool.not_eq_true a ▸ ha, h hp, hp⟩

/-- A poll writes the release time only with its valid bit. -/
theorem btnPoll_rel_unset {coolMs : Word} {a : Bool} {r : ButtonRegs} (h : r.relVld = false → r.relTs = 0) :
    (btnPoll coolMs a now r).2.relVld = false → (btnPoll coolMs a now r).2.relTs = 0 := by
  rcases btnPoll_cases coolMs a now r with ⟨-, e⟩ | ⟨-, e⟩ | ⟨-, -, e⟩ <;> rw [e]
  · exact h
  · exact nofun
  · exact h

/-! ### The warm-up tick (43_event_router.md R103) -/

theorem Block.RegistersInv.warmTick (h : b.RegistersInv cfg) (hlt : b.warm < cfg.warm) :
    (warmTick cfg sample now b).RegistersInv cfg := by
  obtain ⟨hwarm, hmain, hsub, hqdec, hrl, hbt, -⟩ := warmTick_fields cfg sample now b
  obtain ⟨hmain0, hsub0, hrl0, -⟩ := h.warm_quiet hlt
  refine ⟨?_, fun i => ?_, fun e => ?_, fun c => ?_, fun i => ?_, fun c => ?_, fun hzero => ?_, fun _ => ?_⟩
  · rw [hwarm]; bv_omega
  · rw [hbt]; exact nofun
  · rw [hqdec]; exact qdecWarm_acc_unset (h.acc_unset e)
  · rw [hrl]; exact h.rl_unset c
  · rw [hbt]; exact fun _ => rfl
  · rw [hrl, hrl0]; cases c <;> exact nofun
  · rw [hwarm] at hzero; bv_omega
  · exact ⟨hmain.trans hmain0, hsub.trans hsub0, hrl.trans hrl0, fun i => by rw [hbt]; exact ⟨rfl, rfl⟩⟩

theorem Block.Inv.warmTick (h : b.Inv cfg) (hlt : b.warm < cfg.warm) : (warmTick cfg sample now b).Inv cfg := by
  obtain ⟨-, -, -, -, -, -, hsilent⟩ := warmTick_fields cfg sample now b
  exact (h.registers.warmTick hlt).inv_of_silent hsilent

/-! ### The run tick (43_event_router.md R104 to R110) -/

theorem Block.RegistersInv.runTick (h : b.RegistersInv cfg) (ha : cfg.accepted = true) (hrun : ¬ b.warm < cfg.warm) :
    (runTick cfg sample now b).RegistersInv cfg := by
  obtain ⟨hwarm, -, -, hqdec, hrl, hbt, -⟩ := runTick_fields cfg sample now b
  refine ⟨hwarm ▸ h.warm_le, fun i => ?_, fun e => ?_, fun c => ?_, fun i => ?_, fun c => ?_, fun hzero => ?_,
    fun hlt => absurd (hwarm ▸ hlt) hrun⟩
  · rw [hbt]; exact btnPoll_pressed_line (h.pressed_line i)
  · rw [hqdec]; exact qdecAfter_acc_unset (h.acc_unset e)
  · rw [hrl]; exact rlAfter_unset (h.rl_unset c)
  · rw [hbt]; exact btnPoll_rel_unset (h.rel_unset i)
  · rw [hrl, hqdec]; exact rlAfter_emitted_accepted (h.emitted_accepted c)
  · rw [← hwarm, hzero] at hrun
    exact absurd (warm_pos_of_accepted ha) hrun

/-- A channel whose slot is valid emitted at this tick: its limiter and its decoder hold the tick's time. -/
theorem runTick_valid_chanSlot {c : Chan} (hv : (runTick cfg sample now b).valid (chanSlot c) = true) :
    Emits cfg c sample now b ∧ (runTick cfg sample now b).rl.get c = ⟨now, true⟩ ∧
      ((runTick cfg sample now b).qdec.get c).accTs = now := by
  obtain ⟨-, -, -, hqdec, hrl, -, hvalid, -⟩ := runTick_fields cfg sample now b
  rw [hvalid, slotAfter_chanSlot_isSome] at hv
  refine ⟨hv, (hrl c).trans (if_pos hv), ?_⟩
  rw [hqdec, qdecAfter_of_accepts hv.1]

/-- A button whose slot is valid put a record of a kind of its route there (30_encoding.md R69). -/
theorem runTick_valid_button {i : Btn} (hv : (runTick cfg sample now b).valid i.slot = true) :
    ∃ kind, Route.produces (cfg.route.get i) kind ∧
      (runTick cfg sample now b).evSlot.get i.slot = packRecord (Kind.button kind).ordinal
        (runTick cfg sample now b).mainIdx (runTick cfg sample now b).subIdx now := by
  obtain ⟨-, hvalid, hslot⟩ := runTick_button (cfg := cfg) (sample := sample) (now := now) (b := b) (i := i) rfl
  rw [hvalid] at hv
  obtain ⟨kind, hkind⟩ := Option.isSome_iff_exists.1 hv
  exact ⟨kind, routeKind_produces hkind, hslot kind hkind⟩

theorem Block.Inv.runTick (h : b.Inv cfg) (ha : cfg.accepted = true) (hrun : ¬ b.warm < cfg.warm) :
    (runTick cfg sample now b).Inv cfg := by
  obtain ⟨hwarm, hmain, hsub, -, -, -, hvalid, -, hstrobe, hnow⟩ := runTick_fields cfg sample now b
  have hregs := h.registers.runTick (sample := sample) (now := now) ha hrun
  refine ⟨hregs.warm_le, hregs.pressed_line, hregs.acc_unset, hregs.rl_unset, hregs.rel_unset, hregs.emitted_accepted,
    hregs.untouched, fun hlt => absurd (hwarm ▸ hlt) hrun, fun k hempty => ?_, fun _ => hstrobe,
    fun hnone => absurd (hnone.symm.trans hstrobe) Bool.false_ne_true, fun hv => ?_, fun hv => ?_, fun i hv => ?_⟩
  · rw [hvalid, Option.isSome_eq_false_iff, Option.isNone_iff_eq_none] at hempty
    exact (runTick_slot_of_none hempty).2
  · obtain ⟨hemits, hrl, hacc⟩ := runTick_valid_chanSlot (c := .main) hv
    obtain ⟨-, hslot⟩ := runTick_slot_of_some (slotAfter_main_of_emits hemits)
    rw [hnow, hmain, mainAfter, if_pos hemits]
    exact ⟨hslot, hrl, hacc⟩
  · obtain ⟨hemits, hrl, hacc⟩ := runTick_valid_chanSlot (c := .sub) hv
    obtain ⟨-, hslot⟩ := runTick_slot_of_some (slotAfter_sub_of_emits hemits)
    rw [hnow, hmain, hsub]
    exact ⟨hslot, hrl, hacc⟩
  · rw [hnow]
    exact runTick_valid_button hv

/-! ### Every edge, and every step -/

theorem Block.Inv.edgeBlock (h : b.Inv cfg) (ha : cfg.accepted = true) (e : Edge) : (edgeBlock cfg e b).Inv cfg := by
  unfold Machine.edgeBlock tickBlock
  split_ifs with hrst htick hwarm
  · exact Block.inv_cleared cfg
  · exact h.warmTick hwarm
  · exact h.runTick ha hwarm
  · exact h.clearOutputs

end

/-- When the host drives edges only, a step performs one on the block: the next one given, or the free one. -/
theorem exists_edge_of_step {s t : State} (ha : s.cfg.accepted = true) (he : edgesOnly s.stimulus = true)
    (h : step s = .next t) : ∃ e, t.block = edgeBlock s.cfg e s.block := by
  match hs : s.stimulus with
  | [] =>
    rw [step_free s ha hs] at h
    cases h
    exact ⟨_, rfl⟩
  | .edge e :: rest =>
    rw [step_edge ha hs, exec_decodeEdge] at h
    cases h
    exact ⟨e, rfl⟩
  | .record _ _ :: _ => rw [hs] at he; cases he

theorem edgesOnly_tail {l : List Stimulus} (h : edgesOnly l = true) : edgesOnly l.tail = true := by
  cases l with
  | nil => rfl
  | cons x rest => exact (Bool.and_eq_true_iff.1 h).2

/-- Settles O50: a step keeps the configuration, takes one input word and performs an edge, and every edge keeps the block's
invariant. -/
theorem stepKeepsTheInvariant : Obligations.StepKeepsTheInvariant := by
  unfold Obligations.StepKeepsTheInvariant
  intro s t hinv hstep
  obtain ⟨hcfg, hstimulus, -⟩ := stepsKeepTheConfiguration.2 s t hstep
  obtain ⟨e, hblock⟩ := exists_edge_of_step hinv.accepted hinv.edges hstep
  constructor
  · exact hcfg ▸ hinv.accepted
  · exact hstimulus ▸ edgesOnly_tail hinv.edges
  · rw [hcfg, hblock]
    exact hinv.block.edgeBlock hinv.accepted e

end Sys2Proof.Machine
end
